-- ==== Sys2Proof/Word.lean ====
section
/-! DEFINITION. The words of the machine: bytes of host memory and 32-bit registers (00_scope.md R10, R12). -/

namespace Sys2Proof

/-- A `u8`: one byte of host memory, one sample of a plane (R12). -/
abbrev Byte := BitVec 8

/-- A `u32`: one register of the register file (REG_BITS = 32, R10) or one host address (ADDR_BITS = 32, R10). -/
abbrev Word := BitVec 32

/-- A register offset: bits 11:0 of an address relative to REG_BASE (30_encoding.md R140). -/
abbrev Offset := BitVec 12

/-- A quantizer index, 0..QMAX = 127 (43_transform_quant.md R320). -/
abbrev QIndex := Fin 128

/-- A plane of samples, `P[y][x]`: the list of its rows, top first (R15). -/
abbrev Plane := List (List Byte)

end Sys2Proof
end

