-- ==== Sys2Proof/Machine/Numeric.lean ====
section
/-! DEFINITION. The integer arithmetic of 00_scope.md section 5: signed views, clamps, square root, and the byte-order helpers. -/

namespace Sys2Proof.Machine

/-- `as_s32(v)` (R12). -/
def asS32 (w : Word) : Int := w.toInt

/-- `a >> k`, the arithmetic right shift: floor(a / 2^k) for every integer `a` (R13). -/
def sar (a : Int) (k : Nat) : Int := a / 2 ^ k

/-- `clamp(lo, hi, v) = min(hi, max(lo, v))` (R13). -/
def clamp (lo hi v : Int) : Int := min hi (max lo v)

/-- `clip255(v)` as a u8 (R13). -/
def clip255 (v : Int) : Byte := BitVec.ofNat 8 (clamp 0 255 v).toNat

/-- `sign(v)`: -1 for v < 0 and +1 otherwise (R13). -/
def signOf (v : Int) : Int := if v < 0 then -1 else 1

/-- One bit at a time from bit `n - 1` down: the largest `r` reachable from `acc` with `r * r ≤ v`. -/
def isqrtBits (v : Nat) : Nat → Nat → Nat
  | 0, acc => acc
  | n + 1, acc =>
    let next := acc + 2 ^ n
    isqrtBits v n (if next * next ≤ v then next else acc)

/-- `isqrt(n)` (R13), for n below 2^32; the block applies it to 0..10000 only (R401; log 17). -/
def isqrt (v : Nat) : Nat := isqrtBits v 16 0

/-- A sample as an integer. -/
def sampleInt (b : Byte) : Int := (b.toNat : Int)

/-- `P[y][x]` of a plane (R15); 0 outside it. -/
def planeAt (p : Plane) (y x : Nat) : Byte := (p.getD y []).getD x 0

/-- The plane of `h` rows and `w` columns with sample `f y x`. -/
def planeOf (h w : Nat) (f : Nat → Nat → Byte) : Plane :=
  (List.range h).map fun y => (List.range w).map fun x => f y x

/-- Entry `i` of a block of integers; 0 outside it. -/
def coefAt (c : List Int) (i : Nat) : Int := c.getD i 0

/-- `LE_n(v)`: `n` bytes, least significant first (46_container.md R431). -/
def leBytes (n v : Nat) : List Byte :=
  (List.range n).map fun i => BitVec.ofNat 8 (v >>> (8 * i))

/-- The number a little-endian byte sequence stands for. -/
def leValue : List Byte → Nat
  | [] => 0
  | b :: bs => b.toNat + 256 * leValue bs

/-- `base + offset` reduced mod 2^32 (20_memory.md R104). -/
def addrPlus (base : Word) (offset : Nat) : Word := base + BitVec.ofNat 32 offset

end Sys2Proof.Machine
end

