-- ==== Sys2Proof/Syntax.lean ====
section
/-! DEFINITION. The operations of the host interface: one constructor of `Instr` per row of opcode_table.json, and the raw bus
accesses they are carried by (30_encoding.md R140 to R143). -/

namespace Sys2Proof

/-- The host operations on the register window (30_encoding.md R140, R143). The four commands are writes of their word to CMD. -/
inductive Instr where
  /-- NOP, command word 0x0000_0000 (R185) -/
  | nop
  /-- ENCODE, command word 0x0000_0001 (R186) -/
  | encode
  /-- ENCODE_SIMPLE, command word 0x0000_0002 (R187) -/
  | encodeSimple
  /-- CLEAR, command word 0x0000_0003 (R188) -/
  | clear
  /-- RD: a 32-bit register read (R184) -/
  | rd (offset : Offset)
  /-- WR: a 32-bit register write (R184); a write at CMD that is one of the four commands is that command's instruction -/
  | wr (offset : Offset) (data : Word)
  deriving DecidableEq, Repr

/-- One host access to the register window as it appears on the bus, of any width and alignment (20_memory.md R106). -/
inductive BusAccess where
  /-- a read of `size` bytes at `offset` -/
  | read (offset : Offset) (size : Nat)
  /-- a write of `bytes`, the first at `offset` -/
  | write (offset : Offset) (bytes : List Byte)
  deriving DecidableEq, Repr

/-- The registers of the register map (30_encoding.md R141). -/
inductive RegName where
  | id | ctrl | cmd | status | errCode
  | srcAddr | srcLen | stride | width | height | format | quality | method | targetSize | dstAddr | dstCap
  | outLen | qUsed | passes | payloadLen
  deriving DecidableEq, Repr

end Sys2Proof
end

