-- ==== Sys2Proof/Machine/Encoding.lean ====
section
/-! DEFINITION. The encoding tables of 30_encoding.md: the register map (R141) and the command words (R142, R143). -/

namespace Sys2Proof.Machine

/-- The register map (R141): each register with its offset from REG_BASE. -/
def registerMap : List (RegName × Offset) :=
  [(.id, 0x00), (.ctrl, 0x04), (.cmd, 0x08), (.status, 0x0C), (.errCode, 0x10),
   (.srcAddr, 0x14), (.srcLen, 0x18), (.stride, 0x1C), (.width, 0x20), (.height, 0x24),
   (.format, 0x28), (.quality, 0x2C), (.method, 0x30), (.targetSize, 0x34), (.dstAddr, 0x38), (.dstCap, 0x3C),
   (.outLen, 0x40), (.qUsed, 0x44), (.passes, 0x48), (.payloadLen, 0x4C)]

/-- The register at an offset, none where the map names none (10_state.md R52). -/
def regAt (o : Offset) : Option RegName :=
  (registerMap.find? fun e => e.2 == o).map (·.1)

/-- CMD's offset (R141). -/
def cmdOffset : Offset := 0x008

/-- An offset that is a multiple of 4 (R140; 20_memory.md R106). -/
def alignedOffset (o : Offset) : Bool := o.toNat % 4 == 0

/-- `OPC = w[7:0]` (R142). -/
def opcField (w : Word) : Nat := w.toNat % 256

/-- `RSVD = w[31:8]` (R142). -/
def rsvdField (w : Word) : Nat := w.toNat / 256

/-- A legal command word: RSVD = 0 and OPC one of the four opcodes 0x00..0x03 (R142, R143, R145). -/
def legalCommand (w : Word) : Bool := rsvdField w == 0 && decide (opcField w ≤ 0x03)

end Sys2Proof.Machine
end

