-- ==== Sys2Proof/WellFormed.lean ====
section
/-! DEFINITION. Which instructions are well formed: a register access is at a multiple of 4 (20_memory.md R106), and a write of a legal
command word to CMD is written as that command, so that each access has one instruction (log 22). -/

namespace Sys2Proof

/-- The checks an instruction passes before it has an encoding. -/
def Instr.wellFormed : Instr → Bool
  | .nop => true
  | .encode => true
  | .encodeSimple => true
  | .clear => true
  | .rd o => Machine.alignedOffset o
  | .wr o d => Machine.alignedOffset o && !(o == Machine.cmdOffset && Machine.legalCommand d)

/-- A well-formed instruction. -/
abbrev Instr.WellFormed (i : Instr) : Prop := i.wellFormed = true

end Sys2Proof
end

