-- ==== Sys2Proof/Decode.lean ====
section
/-! DEFINITION. From a bus access to the instruction it carries, or a rejection by name, and back (30_encoding.md R140 to R146). -/

namespace Sys2Proof

/-- Why a bus access carries no instruction (20_memory.md R106: the spec gives such accesses no meaning). -/
inductive DecodeError where
  /-- an access that is not 32 bits wide -/
  | notWordAccess
  /-- an access at an offset that is not a multiple of 4 -/
  | misalignedAccess
  deriving DecidableEq, Repr

/-- What decoding an access answers. -/
inductive Decoded where
  | instr (i : Instr)
  | rejected (e : DecodeError)
  deriving DecidableEq, Repr

/-- The instruction of a 32-bit write of `d` at an aligned offset `o`: at CMD a legal word is compared whole against the four
patterns of R143, and every other write is WR. -/
def decodeWrite (o : Offset) (d : Word) : Instr :=
  if o = Machine.cmdOffset then
    if d = 0x00000000#32 then .nop
    else if d = 0x00000001#32 then .encode
    else if d = 0x00000002#32 then .encodeSimple
    else if d = 0x00000003#32 then .clear
    else .wr o d
  else .wr o d

/-- The decoder, total on every access. A word's bytes are little-endian (20_memory.md R102). -/
def decode : BusAccess → Decoded
  | .read o size =>
    if size ≠ 4 then .rejected .notWordAccess
    else if Machine.alignedOffset o then .instr (.rd o)
    else .rejected .misalignedAccess
  | .write o bytes =>
    if bytes.length ≠ 4 then .rejected .notWordAccess
    else if Machine.alignedOffset o then .instr (decodeWrite o (BitVec.ofNat 32 (Machine.leValue bytes)))
    else .rejected .misalignedAccess

/-- The four bytes of a register word at its offset and the three after it (20_memory.md R102). -/
def wordBytes (w : Word) : List Byte := Machine.leBytes 4 w.toNat

/-- The access that carries an instruction (R140, R143). -/
def encode : Instr → BusAccess
  | .nop => .write Machine.cmdOffset (wordBytes 0x00000000#32)
  | .encode => .write Machine.cmdOffset (wordBytes 0x00000001#32)
  | .encodeSimple => .write Machine.cmdOffset (wordBytes 0x00000002#32)
  | .clear => .write Machine.cmdOffset (wordBytes 0x00000003#32)
  | .rd o => .read o 4
  | .wr o d => .write o (wordBytes d)

/-- The access that an instruction numbered as opcode_table.json numbers it stands for. A row of format `cmd` has 32 bits: a write of the
word to CMD. A row of format `mmio` has 12, in whole bytes 16: bits 11:0 are the offset. The table gives RD and WR the same bits and
gives WR's data none, so bit 12 stands for the direction here (0 read, 1 write) and bits 47:16, where there are that many, for the
write data: a convention of the model's (log 3). Bits 15:13 are no part of any row. -/
def tableAccess (nbits w : Nat) : Option BusAccess :=
  if 16 < nbits ∧ nbits ≤ 32 then
    some (.write Machine.cmdOffset (Machine.leBytes 4 w))
  else if w / 2 ^ 13 % 8 ≠ 0 then none
  else if w / 2 ^ 12 % 2 = 0 then some (.read (BitVec.ofNat 12 w) 4)
  else some (.write (BitVec.ofNat 12 w) (Machine.leBytes 4 (w / 2 ^ 16)))

/-- The instruction the decoder reads from the bits `w` of a row of opcode_table.json, none where it rejects them. -/
def decodeTableWord (nbits w : Nat) : Option Instr :=
  match tableAccess nbits w with
  | none => none
  | some a =>
    match decode a with
    | .instr i => some i
    | .rejected _ => none

end Sys2Proof
end

