-- ==== Sys2Proof/Config.lean ====
section
/-! DEFINITION. The implementation parameters of 00_scope.md R10 and the free values of the races the spec leaves open.
A parameter the spec fixes is a plain number; the OPEN probability tables are opaque constants, so that no proof can rest on their values.
The OPEN parameters of the platform (REG_BASE, DMA_COHERENT, the memory map) are arguments of the machine: State.platform. -/

namespace Sys2Proof.Config

/-- MAX_DIM (R10, D10). -/
def maxDim : Int := 16383

/-- MAX_LEVEL, the largest quantized magnitude (R10, D23). -/
def maxLevel : Nat := 2047

/-- MAX_PASSES, the bound of the rate-control loop (R10, D32). -/
def maxPasses : Nat := 8

/-- TOL_NUM of the tolerance TOL_NUM / TOL_DEN (R10, D32). -/
def tolNum : Int := 1

/-- TOL_DEN of the tolerance TOL_NUM / TOL_DEN (R10, D32). -/
def tolDen : Int := 20

/-- DEFAULT_METHOD, used by ENCODE_SIMPLE and at reset (R10). -/
def defaultMethod : Nat := 4

/-- DEFAULT_COEF_PROBS less 1, at `[t][b][k][n]` (R10, D60, OPEN; log 6). The table holds values 1..255 (R66). -/
opaque defaultCoefProbLess1 (t b k n : Nat) : Fin 255

/-- COEF_UPDATE_PROBS less 1, at `[t][b][k][n]` (R10, D60, OPEN; log 6). Each is an operand `p` of R341, so in 1..255. -/
opaque coefUpdateProbLess1 (t b k n : Nat) : Fin 255

/-- DEFAULT_COEF_PROBS[t][b][k][n], in 1..255. -/
def defaultCoefProb (t b k n : Nat) : Nat := (defaultCoefProbLess1 t b k n).val + 1

/-- COEF_UPDATE_PROBS[t][b][k][n], in 1..255. -/
def coefUpdateProb (t b k n : Nat) : Nat := (coefUpdateProbLess1 t b k n).val + 1

/-- Which of the values a raced source byte held is the one read (R117, R520; log 10): free, per CONVERT and address. -/
opaque sourceRaceChoice (count addr : Nat) : Nat

/-- Whether the host's byte survives a store that raced with WRITE (R521; log 11): free, per WRITE and address. -/
opaque hostStoreSurvives (count addr : Nat) : Bool

/-- Whether a host load that races with WRITE already sees the file byte (R117, R521; log 11): free, per load. -/
opaque hostLoadSeesFile (count addr : Nat) : Bool

end Sys2Proof.Config
end

