-- ==== Sys2Proof/Machine/State.lean ====
section
/-! DEFINITION. Everything the spec gives the machine (10_state.md), as plain data, with the state after reset, and the model's own
fields that say what the host does next and what its racing accesses may see. -/

namespace Sys2Proof.Machine

/-- Why a step of a state no run reaches has no meaning. -/
inductive Fault where
  /-- Phase WRITE with no finished pass to write: raised by the WRITE transition only, in a state that no run from reset reaches
  (a pass always leaves `best`, R408). Safe: the model stops where the spec describes nothing (log 14). -/
  | writeWithoutResult
  deriving DecidableEq, Repr

/-- Why a step has no move. -/
inductive Refusal where
  /-- An instruction with no meaning yet, by its mnemonic: raised by `exec`'s arms only. Safe. -/
  | notModelled (mnemonic : String)
  /-- A register access that is not 32 bits wide: raised by the step that decodes it, and by a host byte store or load in the
  register window (20_memory.md R106, "refused by the model"). Also raised by a host cache clean or invalidate at an address in the
  register window, on which R119 is silent: DESIGN CHOICE (log 26). Safe. -/
  | narrowRegisterAccess
  /-- A register access at an offset that is not a multiple of 4: raised by the step that decodes it and by RD and WR (R106). Safe. -/
  | misalignedRegisterAccess
  /-- A source or destination region that overlaps the register window: raised by the CHECK transition (R113). Safe. -/
  | bufferOverRegisterWindow
  /-- A source region in device memory with read side effects: raised by the CHECK transition (R109). Safe. -/
  | sourceInDeviceMemory
  /-- A host load, store, cache clean or cache invalidate outside ordinary memory, whose effect is the platform's: raised by the host's
  own accesses. DESIGN CHOICE (log 26). Safe. -/
  | hostAccessOutsideRam
  deriving DecidableEq, Repr

/-- The register file (10_state.md R41 to R51): every register that holds state. ID is a constant and CMD holds none. -/
structure Regs where
  ctrl : Word
  status : Word
  errCode : Word
  srcAddr : Word
  srcLen : Word
  stride : Word
  width : Word
  height : Word
  format : Word
  quality : Word
  method : Word
  targetSize : Word
  dstAddr : Word
  dstCap : Word
  outLen : Word
  qUsed : Word
  passes : Word
  payloadLen : Word
  deriving DecidableEq, Repr

/-- The sequencer phase (R70). -/
inductive Phase where
  | idle | check | convert | pass | write
  deriving DecidableEq, Repr

/-- The configuration snapshot `cfg` (R60). -/
structure EncConfig where
  srcAddr : Word
  srcLen : Word
  stride : Word
  width : Int
  height : Int
  format : Word
  quality : Nat
  method : Nat
  target : Word
  dstAddr : Word
  dstCap : Word
  deriving DecidableEq, Repr

/-- The luma modes of the block (42_intra_prediction.md R251), in index order. -/
inductive LumaMode where
  | dcPred | vPred | hPred | tmPred
  deriving DecidableEq, Repr

/-- The chroma mode of the block (R252): always DC_PRED. -/
inductive ChromaMode where
  | dcPred
  deriving DecidableEq, Repr

/-- The macroblock record `mb[r][c]` (R64). Levels are in raster coefficient order. -/
structure MbRecord where
  ymode : LumaMode
  uvmode : ChromaMode
  q : QIndex
  y2 : List Int
  y : List (List Int)
  u : List (List Int)
  v : List (List Int)
  deriving DecidableEq, Repr

/-- The coefficient non-zero contexts (R65). The above arrays have one entry per macroblock column. -/
structure Contexts where
  aboveY : List (List Bool)
  aboveU : List (List Bool)
  aboveV : List (List Bool)
  aboveY2 : List Bool
  leftY : List Bool
  leftU : List Bool
  leftV : List Bool
  leftY2 : Bool
  deriving DecidableEq, Repr

/-- The two counts of one tree boolean, `counts[t][b][k][n][0..1]` (R66). -/
structure NodeCount where
  zeros : Nat
  ones : Nat
  deriving DecidableEq, Repr

/-- A bool encoder (R67; 44_entropy_coder.md R340). -/
structure BoolEnc where
  out : List Byte
  range : Nat
  bottom : BitVec 32
  bitCount : Nat
  deriving DecidableEq, Repr

/-- The result of one pass that the rate controller may keep, `best` (R68). -/
structure PassResult where
  file : List Byte
  size : Nat
  q : QIndex
  payloadLen : Nat
  deriving DecidableEq, Repr

/-- The rate controller's mode (45_rate_control.md R404). -/
inductive RateMode where
  | default | target
  deriving DecidableEq, Repr

/-- The internal state of one encode (R60 to R68). `mbs` lists `mb[r][c]` in raster order; `counts` and `probs` list their
entries in the order of R372. -/
structure Session where
  cfg : EncConfig
  ySrc : Plane
  uSrc : Plane
  vSrc : Plane
  yRec : Plane
  uRec : Plane
  vRec : Plane
  mbs : List MbRecord
  ctx : Contexts
  counts : List NodeCount
  probs : List Byte
  e1 : BoolEnc
  e2 : BoolEnc
  k : Nat
  q : QIndex
  lo : Int
  hi : Int
  mode : RateMode
  best : Option PassResult
  deriving DecidableEq, Repr

/-- Host memory: the listed bytes in strictly rising address order, none equal to what an unlisted byte reads as (log 2). -/
abbrev Memory := List Host.Cell

/-- What the platform has at a host address (20_memory.md R109, R110). -/
inductive RegionKind where
  /-- ordinary memory: reads have no side effect and return the last value written (R109) -/
  | ram
  /-- device memory, whose reads may have side effects (R109) -/
  | device
  /-- nothing: an access is not admitted (R110) -/
  | absent
  deriving DecidableEq, Repr

/-- One region of the platform's address map: the `size` addresses from `base` on (mod 2^32) have kind `kind` (R111). -/
structure MapEntry where
  base : Word
  size : Nat
  kind : RegionKind
  deriving DecidableEq, Repr

/-- The OPEN parameters of the platform (00_scope.md R10), which the model takes as an argument: no step changes them (log 7). -/
structure Platform where
  /-- REG_BASE (R10, D2) -/
  regBase : Word
  /-- DMA_COHERENT (R10, D46) -/
  dmaCoherent : Bool
  /-- the regions of the address map that are not ordinary memory, the first that holds an address deciding (R111) -/
  map : List MapEntry
  deriving DecidableEq, Repr

/-- A byte the host holds in its own cache when the block's port is not coherent with it (20_memory.md R119; log 9). -/
structure HostLine where
  addr : Nat
  byte : Byte
  dirty : Bool
  deriving DecidableEq, Repr

/-- What happens next outside the block, or that the block moves (40_commands.md R194, R198; 70_reset_and_hazards.md R510). -/
inductive Input where
  /-- a host access to the register window -/
  | bus (a : BusAccess)
  /-- the block takes its next transition -/
  | block
  /-- the reset input is asserted -/
  | reset
  /-- the host stores a byte to its memory -/
  | hostStore (a : Word) (b : Byte)
  /-- the host loads a byte of its memory -/
  | hostLoad (a : Word)
  /-- the host cleans a byte of its cache -/
  | cacheClean (a : Word)
  /-- the host invalidates a byte of its cache -/
  | cacheInvalidate (a : Word)
  deriving DecidableEq, Repr

/-- The machine: the block (`regs`, `phase`, `session`), host memory as the block's port sees it, and the model's own fields. -/
structure State where
  /-- the register file -/
  regs : Regs
  /-- the sequencer phase -/
  phase : Phase
  /-- the internal state of the current encode -/
  session : Session
  /-- host memory at the block's port -/
  mem : Memory
  /-- MODEL: the platform's OPEN parameters, an argument no step changes (log 7) -/
  platform : Platform
  /-- MODEL: what happens next, in order (log 4) -/
  inputs : List Input
  /-- MODEL: the data of the last register read (log 5) -/
  busData : Word
  /-- MODEL: the byte of the host's last load of memory (log 5) -/
  hostByte : Byte
  /-- MODEL: the host's cache, with no cached byte in the state after reset: DESIGN CHOICE (log 9) -/
  hostCache : List HostLine
  /-- MODEL: values that bytes of memory held since acceptance and that a host store replaced before CONVERT ended (log 10) -/
  srcRace : List Host.Cell
  /-- MODEL: addresses the host stored to while the block was in WRITE (log 11) -/
  dstRace : List Nat
  /-- MODEL: the counter the free values of races are taken at (log 11) -/
  freeCount : Nat
  deriving DecidableEq, Repr

/-- The register file after reset (R71). -/
def Regs.reset : Regs :=
  { ctrl := 0, status := 0, errCode := 0, srcAddr := 0, srcLen := 0, stride := 0, width := 0, height := 0, format := 0,
    quality := 0, method := 4, targetSize := 0, dstAddr := 0, dstCap := 0, outLen := 0, qUsed := 0, passes := 0, payloadLen := 0 }

/-- A snapshot nothing has written. -/
def EncConfig.unspecified : EncConfig :=
  { srcAddr := 0, srcLen := 0, stride := 0, width := 0, height := 0, format := 0, quality := 0, method := 0, target := 0,
    dstAddr := 0, dstCap := 0 }

/-- Contexts nothing has written. -/
def Contexts.unspecified : Contexts :=
  { aboveY := [], aboveU := [], aboveV := [], aboveY2 := [], leftY := [], leftU := [], leftV := [], leftY2 := false }

/-- A freshly initialised bool encoder (44_entropy_coder.md R340 `init`). -/
def BoolEnc.init : BoolEnc := { out := [], range := 255, bottom := 0, bitCount := 24 }

/-- Internal state that holds nothing: R71 leaves it unspecified, and no transition reads it before writing it (R69; log 1). -/
def Session.unspecified : Session :=
  { cfg := EncConfig.unspecified, ySrc := [], uSrc := [], vSrc := [], yRec := [], uRec := [], vRec := [], mbs := [],
    ctx := Contexts.unspecified, counts := [], probs := [], e1 := BoolEnc.init, e2 := BoolEnc.init,
    k := 0, q := 0, lo := 0, hi := 127, mode := .default, best := none }

/-- A platform for the state after reset: the parameters are OPEN, so any value is a choice and no claim rests on it (log 7). -/
def Platform.chosen : Platform := { regBase := 0, dmaCoherent := true, map := [] }

/-- The machine right after reset (R71), with nothing listed in host memory (log 2) and no input pending (log 4). R71 gives no value for the
model's own fields: that the host has cached no byte is a DESIGN CHOICE (log 9), unsafe, and the others are those of logs 1, 5, 7, 10 and 11. -/
def State.reset : State :=
  { regs := Regs.reset, phase := .idle, session := Session.unspecified, mem := [], platform := Platform.chosen, inputs := [], busData := 0, hostByte := 0,
    hostCache := [], srcRace := [], dstRace := [], freeCount := 0 }

end Sys2Proof.Machine
end

