-- ==== Sys2Proof/Machine/Flags.lean ====
section
/-! DEFINITION. The status flags (10_state.md R46), CTRL's enable bit (R44) and the interrupt output (60_exceptions.md R480). -/

namespace Sys2Proof.Machine

/-- STATUS.BUSY (R46). -/
def busyBit : Nat := 0
/-- STATUS.DONE (R46). -/
def doneBit : Nat := 1
/-- STATUS.ERR (R46). -/
def errBit : Nat := 2
/-- STATUS.CMD_DROPPED (R46). -/
def cmdDroppedBit : Nat := 3
/-- STATUS.BAD_CMD (R46). -/
def badCmdBit : Nat := 4
/-- CTRL.IRQ_EN (R44). -/
def irqEnBit : Nat := 0

/-- A word with bit `i` set to `b` and every other bit kept. -/
def setBit (w : Word) (i : Nat) (b : Bool) : Word :=
  if b then w ||| (1#32 <<< i) else w &&& ~~~(1#32 <<< i)

/-- STATUS.BUSY of a state. -/
def State.busy (s : State) : Bool := s.regs.status.getLsbD busyBit
/-- STATUS.DONE of a state. -/
def State.done (s : State) : Bool := s.regs.status.getLsbD doneBit
/-- STATUS.ERR of a state. -/
def State.err (s : State) : Bool := s.regs.status.getLsbD errBit
/-- STATUS.CMD_DROPPED of a state. -/
def State.cmdDropped (s : State) : Bool := s.regs.status.getLsbD cmdDroppedBit
/-- STATUS.BAD_CMD of a state. -/
def State.badCmd (s : State) : Bool := s.regs.status.getLsbD badCmdBit
/-- CTRL.IRQ_EN of a state. -/
def State.irqEn (s : State) : Bool := s.regs.ctrl.getLsbD irqEnBit

/-- The interrupt output, a level: `CTRL.IRQ_EN and (STATUS.DONE or STATUS.ERR)` (R480). -/
def State.irq (s : State) : Bool := s.irqEn && (s.done || s.err)

/-- What CTRL holds after a write of `d`: bits 31:1 are ignored and stay 0 (R44). -/
def ctrlStored (d : Word) : Word := setBit 0 irqEnBit (d.getLsbD irqEnBit)

/-- STATUS at the acceptance of an encode (40_commands.md R183): the sticky flags keep their values. -/
def statusAccepted (st : Word) : Word := setBit (setBit (setBit st doneBit false) errBit false) busyBit true

/-- STATUS at completion (40_commands.md R197). -/
def statusCompleted (st : Word) : Word := setBit (setBit st busyBit false) doneBit true

/-- STATUS at error entry (60_exceptions.md R470). -/
def statusErrored (st : Word) : Word := setBit (setBit (setBit st errBit true) busyBit false) doneBit false

/-- STATUS after CLEAR (40_commands.md R188). -/
def statusCleared (st : Word) : Word :=
  setBit (setBit (setBit (setBit st doneBit false) errBit false) cmdDroppedBit false) badCmdBit false

end Sys2Proof.Machine
end

