-- ==== Sys2Proof/Machine/Operands.lean ====
section
/-! DEFINITION. The operands: the register an offset names (30_encoding.md R141, 40_commands.md R184) and the configuration the encode
commands read at acceptance (30_encoding.md R144, 40_commands.md R186, R187). -/

namespace Sys2Proof.Machine

/-- The ID register's constant (10_state.md R42). -/
def idValue : Word := 0x56503845

/-- A register read (R41, R42 to R51): RO and RW registers give their value, CMD gives 0. -/
def readReg (r : RegName) (g : Regs) : Word :=
  match r with
  | .id => idValue
  | .ctrl => g.ctrl
  | .cmd => 0
  | .status => g.status
  | .errCode => g.errCode
  | .srcAddr => g.srcAddr
  | .srcLen => g.srcLen
  | .stride => g.stride
  | .width => g.width
  | .height => g.height
  | .format => g.format
  | .quality => g.quality
  | .method => g.method
  | .targetSize => g.targetSize
  | .dstAddr => g.dstAddr
  | .dstCap => g.dstCap
  | .outLen => g.outLen
  | .qUsed => g.qUsed
  | .passes => g.passes
  | .payloadLen => g.payloadLen

/-- What a read at an offset returns: the register there, 0 if unmapped (R52, R184). -/
def readOffset (o : Offset) (g : Regs) : Word :=
  match regAt o with
  | some r => readReg r g
  | none => 0

/-- `quality = min(QUALITY, 100)` (R144). -/
def clampQuality (w : Word) : Nat := min w.toNat 100

/-- `method = min(METHOD, 6)` (R144). -/
def clampMethod (w : Word) : Nat := min w.toNat 6

/-- The configuration ENCODE is accepted with (R186). -/
def snapshotEncode (g : Regs) : EncConfig :=
  { srcAddr := g.srcAddr, srcLen := g.srcLen, stride := g.stride, width := asS32 g.width, height := asS32 g.height,
    format := g.format, quality := clampQuality g.quality, method := clampMethod g.method, target := g.targetSize,
    dstAddr := g.dstAddr, dstCap := g.dstCap }

/-- The configuration ENCODE_SIMPLE is accepted with (R187): packed rows, RGBA8, the default method, no target. -/
def snapshotSimple (g : Regs) : EncConfig :=
  { srcAddr := g.srcAddr, srcLen := g.srcLen, stride := BitVec.ofInt 32 (4 * asS32 g.width), width := asS32 g.width,
    height := asS32 g.height, format := 0, quality := clampQuality g.quality, method := Config.defaultMethod, target := 0,
    dstAddr := g.dstAddr, dstCap := g.dstCap }

/-- The geometry of R61, a function of the snapshot once its checks have passed (log 15): W. -/
def EncConfig.w (c : EncConfig) : Nat := c.width.toNat
/-- H (R61). -/
def EncConfig.h (c : EncConfig) : Nat := c.height.toNat
/-- MBW = (W + 15) / 16 (R61). -/
def EncConfig.mbw (c : EncConfig) : Nat := (c.w + 15) / 16
/-- MBH = (H + 15) / 16 (R61). -/
def EncConfig.mbh (c : EncConfig) : Nat := (c.h + 15) / 16
/-- PW = 16 * MBW (R61). -/
def EncConfig.pw (c : EncConfig) : Nat := 16 * c.mbw
/-- PH = 16 * MBH (R61). -/
def EncConfig.ph (c : EncConfig) : Nat := 16 * c.mbh
/-- CW = (W + 1) / 2 (R61). -/
def EncConfig.cw (c : EncConfig) : Nat := (c.w + 1) / 2
/-- CH = (H + 1) / 2 (R61). -/
def EncConfig.ch (c : EncConfig) : Nat := (c.h + 1) / 2

end Sys2Proof.Machine
end

