-- ==== Sys2Proof/Machine/Ops.lean ====
section
/-! DEFINITION. The named operations: host memory (20_memory.md), register writes (40_commands.md R184), acceptance (R183), completion
(R197), error entry (60_exceptions.md R470) and the return from it (R472, CLEAR's R188), the register window and the platform. -/

namespace Sys2Proof.Machine

/-- What a byte of memory that nothing has written reads as: 0x00 (DESIGN CHOICE, unsafe; log 2). -/
def unwrittenByte : Byte := 0

/-- One byte of memory. -/
def readByte : Memory → Nat → Byte
  | [], _ => unwrittenByte
  | c :: m, a => if c.1 = a then c.2 else readByte m a

/-- A memory with byte `a` set to `v` and every other byte kept, in canonical form. -/
def writeByte : Memory → Nat → Byte → Memory
  | [], a, v => if v = unwrittenByte then [] else [(a, v)]
  | c :: m, a, v =>
    if a < c.1 then (if v = unwrittenByte then c :: m else (a, v) :: c :: m)
    else if a = c.1 then (if v = unwrittenByte then m else (a, v) :: m)
    else c :: writeByte m a v

/-- The listed addresses rise strictly from above `lo`, stay below 2^32, and no listed byte is what an unlisted one reads as. -/
def Memory.wfAbove (lo : Int) : Memory → Bool
  | [] => true
  | c :: m => decide (lo < (c.1 : Int)) && decide (c.1 < 2 ^ 32) && decide (c.2 ≠ unwrittenByte) && Memory.wfAbove c.1 m

/-- The canonical form of host memory (log 2). -/
def Memory.wf (m : Memory) : Bool := Memory.wfAbove (-1) m

/-- `MemWrite` of a list of (address, byte) pairs, each once (46_container.md R440). -/
def writeCells (m : Memory) (cells : List Host.Cell) : Memory :=
  cells.foldl (fun acc c => writeByte acc c.1 c.2) m

/-- A write of `d` to register `r` (R184): an RW register stores it, CTRL its one defined bit (R44); RO registers ignore it. CMD is
handled where commands are issued. -/
def writeReg (r : RegName) (d : Word) (g : Regs) : Regs :=
  match r with
  | .id => g
  | .ctrl => { g with ctrl := ctrlStored d }
  | .cmd => g
  | .status => g
  | .errCode => g
  | .srcAddr => { g with srcAddr := d }
  | .srcLen => { g with srcLen := d }
  | .stride => { g with stride := d }
  | .width => { g with width := d }
  | .height => { g with height := d }
  | .format => { g with format := d }
  | .quality => { g with quality := d }
  | .method => { g with method := d }
  | .targetSize => { g with targetSize := d }
  | .dstAddr => { g with dstAddr := d }
  | .dstCap => { g with dstCap := d }
  | .outLen => g
  | .qUsed => g
  | .passes => g
  | .payloadLen => g

/-- A write at an offset: ignored where no register is mapped (10_state.md R52). -/
def writeOffset (o : Offset) (d : Word) (g : Regs) : Regs :=
  match regAt o with
  | some r => writeReg r d g
  | none => g

/-- STATUS.CMD_DROPPED <- 1 (R181). -/
def dropCommand (s : State) : State :=
  { s with regs := { s.regs with status := setBit s.regs.status cmdDroppedBit true } }

/-- STATUS.BAD_CMD <- 1 (R182). -/
def flagBadCommand (s : State) : State :=
  { s with regs := { s.regs with status := setBit s.regs.status badCmdBit true } }

/-- Acceptance of an encode, `accept(cfg)` (R183). The model's race records start empty with it (logs 10, 11). -/
def acceptEncode (cfg : EncConfig) (s : State) : State :=
  { s with
    session := { s.session with cfg := cfg }
    regs := { s.regs with
      status := statusAccepted s.regs.status
      errCode := 0
      outLen := 0
      payloadLen := 0
      qUsed := 0
      passes := 0 }
    phase := .check
    srcRace := []
    dstRace := [] }

/-- The error codes of R460. -/
inductive ErrorCode where
  | invalidDimensions | bufferTooSmall | unsupportedPixelFormat | encodingOverflow | payloadTooLarge
  deriving DecidableEq, Repr

/-- The numbering of R460. -/
def errorNumber : ErrorCode → Word
  | .invalidDimensions => 1
  | .bufferTooSmall => 2
  | .unsupportedPixelFormat => 3
  | .encodingOverflow => 4
  | .payloadTooLarge => 5

/-- Error entry, `raise Error(code)` (R470). The result registers stay as acceptance left them and the internal state is discarded. -/
def raiseError (code : ErrorCode) (s : State) : State :=
  { s with
    regs := { s.regs with errCode := errorNumber code, status := statusErrored s.regs.status }
    session := Session.unspecified
    phase := .idle }

/-- The acknowledgement of the last result: the return from an error (R472) and the whole of CLEAR (R188). -/
def acknowledge (s : State) : State :=
  { s with
    regs := { s.regs with
      status := statusCleared s.regs.status
      errCode := 0
      outLen := 0
      payloadLen := 0
      qUsed := 0
      passes := 0 } }

/-- Completion, `complete(best)` (R197). -/
def complete (best : PassResult) (s : State) : State :=
  { s with
    regs := { s.regs with
      outLen := BitVec.ofNat 32 best.size
      payloadLen := BitVec.ofNat 32 best.payloadLen
      qUsed := BitVec.ofNat 32 best.q.val
      passes := BitVec.ofNat 32 s.session.k
      status := statusCompleted s.regs.status }
    phase := .idle }

/-- The reset input (70_reset_and_hazards.md R510): the block's state is that of R71; host memory, the host's cache and what the host
does next are not the block's and stay (R512). -/
def resetBlock (s : State) : State :=
  { s with regs := Regs.reset, phase := .idle, session := Session.unspecified }

/-- Whether a host address lies in the register window, 4 KiB from REG_BASE (20_memory.md R100). -/
def inRegisterWindow (p : Platform) (a : Word) : Bool := decide ((a - p.regBase).toNat < 4096)

/-- Whether `len` bytes from `start` on (mod 2^32) meet the register window: one of the two begins inside the other (20_memory.md R113). -/
def meetsWindow (p : Platform) (start : Word) (len : Nat) : Bool :=
  decide (0 < len) && (decide ((p.regBase - start).toNat < len) || inRegisterWindow p start)

/-- What the platform has at an address (R109, R110). -/
def regionKind (p : Platform) (a : Word) : RegionKind :=
  match p.map.find? fun e => decide ((a - e.base).toNat < e.size) with
  | some e => e.kind
  | none => .ram

/-- Whether the platform admits every access of a list (R110). -/
def admitted (p : Platform) (addrs : List Word) : Bool := addrs.all fun a => regionKind p a != .absent

/-- Whether an access of a list goes to device memory (R109). -/
def touchesDevice (p : Platform) (addrs : List Word) : Bool := addrs.any fun a => regionKind p a == .device

end Sys2Proof.Machine
end

