-- ==== Sys2Proof/Machine/Commands.lean ====
section
/-! DEFINITION. The four commands (40_commands.md section 2) and command issue (R180 to R183). -/

namespace Sys2Proof.Machine

/-- A command other than NOP: dropped while BUSY (R181), else its effect (R180). -/
def unlessBusy (effect : State → State) (s : State) : State := if s.busy then dropCommand s else effect s

/-- NOP: no operation, BUSY or not (R185). -/
def execNop (s : State) : Host.Outcome State Fault Refusal := .next s

/-- ENCODE: acceptance with the full configuration (R186, R183). -/
def execEncode (s : State) : Host.Outcome State Fault Refusal :=
  .next (unlessBusy (fun s => acceptEncode (snapshotEncode s.regs) s) s)

/-- ENCODE_SIMPLE: acceptance with the configuration of entry point B (R187, R183). -/
def execEncodeSimple (s : State) : Host.Outcome State Fault Refusal :=
  .next (unlessBusy (fun s => acceptEncode (snapshotSimple s.regs) s) s)

/-- CLEAR: acknowledge the last result (R188, R472). -/
def execClear (s : State) : Host.Outcome State Fault Refusal := .next (unlessBusy acknowledge s)

/-- Command issue: a write of `w` to CMD (R180). The check for reserved encodings comes before the BUSY check (R182). -/
def issueCommand (w : Word) (s : State) : State :=
  if legalCommand w then
    if opcField w = 0x00 then s
    else if opcField w = 0x01 then unlessBusy (fun s => acceptEncode (snapshotEncode s.regs) s) s
    else if opcField w = 0x02 then unlessBusy (fun s => acceptEncode (snapshotSimple s.regs) s) s
    else unlessBusy acknowledge s
  else flagBadCommand s

end Sys2Proof.Machine
end

