-- ==== Sys2Proof/Machine/RegisterAccess.lean ====
section
/-! DEFINITION. Register reads and writes (40_commands.md R184). -/

namespace Sys2Proof.Machine

/-- RD: the register at the offset, per its access kind, is the read data; a read has no other effect (R184; 20_memory.md R107). An offset
that is not a multiple of 4 has no meaning (R106). -/
def execRd (o : Offset) (s : State) : Host.Outcome State Fault Refusal :=
  if alignedOffset o then .next { s with busData := readOffset o s.regs }
  else .refused .misalignedRegisterAccess

/-- WR: at CMD the word is issued (R180); an RW register stores the data, in any phase; every other write is ignored (R184). -/
def execWr (o : Offset) (d : Word) (s : State) : Host.Outcome State Fault Refusal :=
  if alignedOffset o then
    if o = cmdOffset then .next (issueCommand d s)
    else .next { s with regs := writeOffset o d s.regs }
  else .refused .misalignedRegisterAccess

end Sys2Proof.Machine
end

