-- ==== Sys2Proof/Machine/Dispatch.lean ====
section
/-! DEFINITION. One arm per instruction. -/

namespace Sys2Proof.Machine

def exec (i : Instr) (s : State) : Host.Outcome State Fault Refusal :=
  match i with
  | .nop => Sys2Proof.Machine.execNop s
  | .encode => Sys2Proof.Machine.execEncode s
  | .encodeSimple => Sys2Proof.Machine.execEncodeSimple s
  | .clear => Sys2Proof.Machine.execClear s
  | .rd o => Sys2Proof.Machine.execRd o s
  | .wr o d => Sys2Proof.Machine.execWr o d s

end Sys2Proof.Machine
end

