-- ==== Sys2Proof/Machine/Bus.lean ====
section
/-! DEFINITION. From a bus access to its outcome: decode, then run the instruction or refuse by name (20_memory.md R106). -/

namespace Sys2Proof.Machine

/-- The refusal of an access that carries no instruction (R106). -/
def refusalOf : DecodeError → Refusal
  | .notWordAccess => .narrowRegisterAccess
  | .misalignedAccess => .misalignedRegisterAccess

/-- One host access to the register window. -/
def busStep (a : BusAccess) (s : State) : Host.Outcome State Fault Refusal :=
  match decode a with
  | .instr i => exec i s
  | .rejected e => .refused (refusalOf e)

end Sys2Proof.Machine
end

