-- ==== Sys2Proof/Machine/Container.lean ====
section
/-! DEFINITION. The Container Writer (46_container.md): the key-frame header, the WebP file, and the file's place in host memory. -/

namespace Sys2Proof.Machine

/-- "RIFF" (R432). -/
def riffCode : List Byte := [0x52, 0x49, 0x46, 0x46]
/-- "WEBP" (R432). -/
def webpCode : List Byte := [0x57, 0x45, 0x42, 0x50]
/-- "VP8 " (R432). -/
def vp8Code : List Byte := [0x56, 0x50, 0x38, 0x20]

/-- `frame_header(fps, W, H)` (R436): key = 0, version = 0, show = 1. -/
def frameHeader (fps w h : Nat) : List Byte :=
  leBytes 3 (16 + fps * 32) ++ [0x9D, 0x01, 0x2A] ++ leBytes 2 w ++ leBytes 2 h

/-- The payload of a pass (44_entropy_coder.md R390). -/
def payloadOf (p1 p2 : List Byte) (w h : Nat) : List Byte := frameHeader p1.length w h ++ p1 ++ p2

/-- The pad byte, when the payload length is odd (R433). -/
def padOf (l : Nat) : List Byte := if l % 2 = 1 then [0x00] else []

/-- `riff`, the total size minus 8, for a payload of length `l` (R437). -/
def riffSize (l : Nat) : Nat := 4 + 8 + l + (padOf l).length

/-- The file of a payload whose sizes fit their fields, `webp(payload)` (R437). -/
def webpFile (payload : List Byte) : List Byte :=
  riffCode ++ leBytes 4 (riffSize payload.length) ++ webpCode ++ vp8Code ++ leBytes 4 payload.length ++ payload ++ padOf payload.length

/-- The bytes a file is written to: byte i at `dst_addr + i` mod 2^32 (R440; 20_memory.md R104, R105). -/
def destCells (dst : Word) (file : List Byte) : List Host.Cell :=
  file.mapIdx fun i b => ((addrPlus dst i).toNat, b)

/-- Whether the host's byte at an address stands against the file's: a free choice where the host stored there while the block was in
WRITE, and never elsewhere (70_reset_and_hazards.md R521; log 11). -/
def hostByteStands (s : State) (a : Nat) : Bool :=
  match s.dstRace.contains a with
  | true => Config.hostStoreSurvives s.freeCount a
  | false => false

/-- The bytes the WRITE transition stores. -/
def writtenCells (s : State) (file : List Byte) : List Host.Cell :=
  (destCells s.session.cfg.dstAddr file).filter fun c => !hostByteStands s c.1

end Sys2Proof.Machine
end

