-- ==== Sys2Proof/Machine/HostSide.lean ====
section
/-! DEFINITION. The host's own accesses to its memory, with the races and the cache maintenance of 20_memory.md R115 to R119 and
70_reset_and_hazards.md R520, R521. -/

namespace Sys2Proof.Machine

/-- A store that the block's port sees. Between acceptance and the end of CONVERT the replaced value stays one the block may still
read (R520; log 10), and in WRITE the address is one whose file byte may already have been written (R521; log 11). -/
def portStore (a : Nat) (b : Byte) (s : State) : State :=
  match s.phase with
  | .idle => { s with mem := writeByte s.mem a b }
  | .check => { s with mem := writeByte s.mem a b, srcRace := (a, readByte s.mem a) :: s.srcRace }
  | .convert => { s with mem := writeByte s.mem a b, srcRace := (a, readByte s.mem a) :: s.srcRace }
  | .pass => { s with mem := writeByte s.mem a b }
  | .write => { s with mem := writeByte s.mem a b, dstRace := a :: s.dstRace }

/-- The file byte that WRITE may already have put at an address, if the block is there and the file fits (R117). -/
def fileByteAt (s : State) (a : Nat) : Option Byte :=
  match s.phase, s.session.best with
  | .write, some best =>
    if s.session.cfg.dstCap.toNat < best.size then none
    else ((destCells s.session.cfg.dstAddr best.file).find? fun c => c.1 == a).map (·.2)
  | _, _ => none

/-- The byte a host read sees at the port: memory's, or during WRITE, by a free choice, the file's (R117, R521). -/
def portByte (s : State) (a : Nat) : Byte :=
  match fileByteAt s a with
  | none => readByte s.mem a
  | some f => if Config.hostLoadSeesFile s.freeCount a then f else readByte s.mem a

/-- The host's cached copy of a byte. -/
def cacheFind (c : List HostLine) (a : Nat) : Option HostLine := c.find? fun l => l.addr == a

/-- The cache without a byte. -/
def cacheDrop (c : List HostLine) (a : Nat) : List HostLine := c.filter fun l => l.addr != a

/-- The cache with one byte's line replaced. -/
def cachePut (c : List HostLine) (l : HostLine) : List HostLine := l :: cacheDrop c l.addr

/-- A host access that reaches ordinary memory, and no other. In the register window a byte load or store is R106's narrow access
(20_memory.md). DESIGN CHOICE (log 26), safe: beside R119 the spec says nothing of a cache clean or invalidate in the register window,
and the model refuses it under the same name; every access of a device or of an address with no memory is refused too. -/
def onRam (a : Word) (effect : State → State) (s : State) : Host.Outcome State Fault Refusal :=
  if inRegisterWindow s.platform a then .refused .narrowRegisterAccess
  else
    match regionKind s.platform a with
    | .ram => .next (effect s)
    | .device => .refused .hostAccessOutsideRam
    | .absent => .refused .hostAccessOutsideRam

/-- A host store of one byte: at once at the port where it is coherent, else in the host's cache until cleaned (R115, R119). -/
def storeEffect (a : Nat) (b : Byte) (s : State) : State :=
  if s.platform.dmaCoherent then portStore a b s
  else { s with hostCache := cachePut s.hostCache { addr := a, byte := b, dirty := true } }

/-- A host load of one byte, through the host's cache where the port is not coherent (R116, R119). Each load draws its own free value. -/
def loadEffect (a : Nat) (s : State) : State :=
  if s.platform.dmaCoherent then { s with hostByte := portByte s a, freeCount := s.freeCount + 1 }
  else
    match cacheFind s.hostCache a with
    | some l => { s with hostByte := l.byte }
    | none =>
      { s with
        hostByte := portByte s a
        hostCache := cachePut s.hostCache { addr := a, byte := portByte s a, dirty := false }
        freeCount := s.freeCount + 1 }

/-- Cleaning a byte of the host's cache: a dirty one becomes visible at the port (R119). -/
def cleanEffect (a : Nat) (s : State) : State :=
  match cacheFind s.hostCache a with
  | some l =>
    if l.dirty then portStore a l.byte { s with hostCache := cachePut s.hostCache { l with dirty := false } } else s
  | none => s

/-- Invalidating a byte of the host's cache (R119). -/
def invalidateEffect (a : Nat) (s : State) : State := { s with hostCache := cacheDrop s.hostCache a }

/-- The host stores a byte. -/
def hostStore (a : Word) (b : Byte) (s : State) : Host.Outcome State Fault Refusal := onRam a (storeEffect a.toNat b) s

/-- The host loads a byte. -/
def hostLoad (a : Word) (s : State) : Host.Outcome State Fault Refusal := onRam a (loadEffect a.toNat) s

/-- The host cleans a byte of its cache. -/
def cacheClean (a : Word) (s : State) : Host.Outcome State Fault Refusal := onRam a (cleanEffect a.toNat) s

/-- The host invalidates a byte of its cache. -/
def cacheInvalidate (a : Word) (s : State) : Host.Outcome State Fault Refusal := onRam a (invalidateEffect a.toNat) s

end Sys2Proof.Machine
end

