-- ==== Sys2Proof/Machine/BoolCoder.lean ====
section
/-! DEFINITION. The boolean encoder (44_entropy_coder.md section 1). -/

namespace Sys2Proof.Machine

/-- Carry into a list of bytes given last byte first: each 0xFF becomes 0x00 up to the first other byte, which gains 1. -/
def addOneRev : List Byte → List Byte
  | [] => []
  | b :: bs => if b = 0xFF#8 then 0x00#8 :: addOneRev bs else (b + 1#8) :: bs

/-- `add_one(out)` (R342). A carry that would pass the first byte is lost: R342 says that none does (log 13). -/
def addOne (out : List Byte) : List Byte := (addOneRev out.reverse).reverse

/-- One turn of R341's loop: the range doubles, a carry out of `bottom` is propagated, and a full byte is moved to `out`. -/
def shiftOnce (e : BoolEnc) : BoolEnc :=
  let out := if e.bottom.getLsbD 31 then addOne e.out else e.out
  let bottom := e.bottom <<< 1
  if e.bitCount - 1 = 0 then
    { out := out ++ [BitVec.ofNat 8 (bottom.toNat / 2 ^ 24)], range := e.range * 2, bottom := bottom &&& 0x00FFFFFF#32, bitCount := 8 }
  else
    { out := out, range := e.range * 2, bottom := bottom, bitCount := e.bitCount - 1 }

/-- R341's `while E.range < 128`, at most `fuel` turns. -/
def normalise : Nat → BoolEnc → BoolEnc
  | 0, e => e
  | fuel + 1, e => if e.range < 128 then normalise fuel (shiftOnce e) else e

/-- `split` of R341. -/
def splitOf (range p : Nat) : Nat := 1 + ((range - 1) * p) >>> 8

/-- `put(E, p, bit)` (R341). Seven turns bring any range of at least 1 to 128 or more (log 13). -/
def putBool (e : BoolEnc) (p : Nat) (bit : Bool) : BoolEnc :=
  let split := splitOf e.range p
  normalise 7
    (if bit then { e with bottom := e.bottom + BitVec.ofNat 32 split, range := e.range - split }
     else { e with range := split })

/-- The booleans of `lit(E, v, n)`: the bits of `v` from `n - 1` down, each at probability 128 (R343). -/
def litBools (v n : Nat) : List (Nat × Bool) :=
  (List.range n).map fun i => (128, v.testBit (n - 1 - i))

/-- A sequence of booleans put one after another. -/
def putAll (e : BoolEnc) (bs : List (Nat × Bool)) : BoolEnc := bs.foldl (fun acc b => putBool acc b.1 b.2) e

/-- `flush(E)`'s bytes (R344): the pending carry, then the four bytes of `bottom << bit_count`. -/
def flushBytes (e : BoolEnc) : List Byte :=
  let out := if e.bottom.getLsbD (32 - e.bitCount) then addOne e.out else e.out
  let v := (e.bottom <<< e.bitCount).toNat
  out ++ [BitVec.ofNat 8 (v / 2 ^ 24), BitVec.ofNat 8 (v / 2 ^ 16), BitVec.ofNat 8 (v / 2 ^ 8), BitVec.ofNat 8 v]

/-- The encoder after `flush(E)`: its bytes are the flushed ones (R344, state written E.out). -/
def flushEnc (e : BoolEnc) : BoolEnc := { e with out := flushBytes e }

end Sys2Proof.Machine
end

