-- ==== Sys2Proof/Machine/Transform.lean ====
section
/-! DEFINITION. The 4x4 transforms (43_transform_quant.md sections 2 and 3). A block is a list of 16 integers in raster order. -/

namespace Sys2Proof.Machine

/-- One row of the forward DCT's first pass (R293). -/
def fdctRow (d0 d1 d2 d3 : Int) : List Int :=
  let a0 := d0 + d3
  let a1 := d1 + d2
  let a2 := d1 - d2
  let a3 := d0 - d3
  [(a0 + a1) * 8, sar (a2 * 2217 + a3 * 5352 + 1812) 9, (a0 - a1) * 8, sar (a3 * 2217 - a2 * 5352 + 937) 9]

/-- One column of the forward DCT's second pass (R293): rows 0 to 3 of the result. -/
def fdctCol (t0 t1 t2 t3 : Int) : List Int :=
  let a0 := t0 + t3
  let a1 := t1 + t2
  let a2 := t1 - t2
  let a3 := t0 - t3
  [sar (a0 + a1 + 7) 4,
   sar (a2 * 2217 + a3 * 5352 + 12000) 16 + (if a3 ≠ 0 then 1 else 0),
   sar (a0 - a1 + 7) 4,
   sar (a3 * 2217 - a2 * 5352 + 51000) 16]

/-- A function of four entries applied to each row of a block, the rows joined. -/
def onRows (f : Int → Int → Int → Int → List Int) (d : List Int) : List Int :=
  (List.range 4).flatMap fun i => f (coefAt d (4 * i)) (coefAt d (4 * i + 1)) (coefAt d (4 * i + 2)) (coefAt d (4 * i + 3))

/-- A function of four entries applied to each column of a block, each result put back as that column. -/
def onCols (f : Int → Int → Int → Int → List Int) (d : List Int) : List Int :=
  let cols := (List.range 4).map fun i => f (coefAt d i) (coefAt d (4 + i)) (coefAt d (8 + i)) (coefAt d (12 + i))
  (List.range 16).map fun k => coefAt (cols.getD (k % 4) []) (k / 4)

/-- The forward 4x4 DCT, by R293's pseudocode. DEDUCED (log 24), unsafe: R293's corner case says that an all-zero block gives all zeros, and
its pseudocode gives 1 at position 1; the model follows the pseudocode. -/
def fdct (d : List Int) : List Int := onCols fdctCol (onRows fdctRow d)

/-- One row of the forward WHT's first pass (R294). -/
def fwhtRow (e0 e1 e2 e3 : Int) : List Int :=
  let a0 := e0 + e2
  let a1 := e1 + e3
  let a2 := e1 - e3
  let a3 := e0 - e2
  [a0 + a1, a3 + a2, a3 - a2, a0 - a1]

/-- One column of the forward WHT's second pass (R294). -/
def fwhtCol (t0 t1 t2 t3 : Int) : List Int :=
  (fwhtRow t0 t1 t2 t3).map fun v => sar v 1

/-- The forward Walsh-Hadamard transform (R294). -/
def fwht (e : List Int) : List Int := onCols fwhtCol (onRows fwhtRow e)

/-- `x + (x * C1 >> 16)` with C1 = 20091 (R295). -/
def mulC1 (x : Int) : Int := x + sar (x * 20091) 16

/-- `x * C2 >> 16` with C2 = 35468 (R295). -/
def mulC2 (x : Int) : Int := sar (x * 35468) 16

/-- The butterfly both passes of the inverse DCT share (R295). -/
def idctLine (x0 x1 x2 x3 : Int) : List Int :=
  let a1 := x0 + x2
  let b1 := x0 - x2
  let c1 := mulC2 x1 - mulC1 x3
  let d1 := mulC1 x1 + mulC2 x3
  [a1 + d1, b1 + c1, b1 - c1, a1 - d1]

/-- The second pass's line, rounded (R295). -/
def idctRow (u0 u1 u2 u3 : Int) : List Int := (idctLine u0 u1 u2 u3).map fun v => sar (v + 4) 3

/-- The inverse 4x4 DCT, vertical pass first (R295). -/
def idct (x : List Int) : List Int := onRows idctRow (onCols idctLine x)

/-- The butterfly both passes of the inverse WHT share (R296). -/
def iwhtLine (y0 y1 y2 y3 : Int) : List Int :=
  let a1 := y0 + y3
  let b1 := y1 + y2
  let c1 := y1 - y2
  let d1 := y0 - y3
  [a1 + b1, c1 + d1, a1 - b1, d1 - c1]

/-- The second pass's line, rounded (R296). -/
def iwhtRow (u0 u1 u2 u3 : Int) : List Int := (iwhtLine u0 u1 u2 u3).map fun v => sar (v + 3) 3

/-- The inverse Walsh-Hadamard transform, vertical pass first (R296). -/
def iwht (y : List Int) : List Int := onRows iwhtRow (onCols iwhtLine y)

/-- ZIGZAG: the raster index of each scan position (R310). -/
def zigzagTable : List Nat := [0, 1, 4, 8, 5, 2, 3, 6, 9, 12, 13, 10, 7, 11, 14, 15]

/-- A raster block read in scan order (R310). -/
def zigzag (c : List Int) : List Int := zigzagTable.map (coefAt c)

end Sys2Proof.Machine
end

