-- ==== Sys2Proof/Machine/Tokens.lean ====
section
/-! DEFINITION. The coefficient tokens and the order they are coded in (44_entropy_coder.md sections 2 and 3). A walk is the list of the
booleans it emits: counting and coding use the same list (R370). -/

namespace Sys2Proof.Machine

/-- The block types (43_transform_quant.md R291). -/
inductive BlockType where
  | yAfterY2 | y2 | chroma | yWithDc
  deriving DecidableEq, Repr

/-- The type's number (43_transform_quant.md R291). -/
def typeIndex : BlockType → Nat
  | .yAfterY2 => 0
  | .y2 => 1
  | .chroma => 2
  | .yWithDc => 3

/-- The first coded position of a type (43_transform_quant.md R291). -/
def firstPosition : BlockType → Nat
  | .yAfterY2 => 1
  | .y2 => 0
  | .chroma => 0
  | .yWithDc => 0

/-- One boolean of a token walk (R350): a tree boolean, counted and adapted, or one of fixed probability. -/
inductive TokenBool where
  /-- `node(t, b, k, n, bit)` -/
  | node (t : BlockType) (band : Fin 8) (ctx : Fin 3) (n : Fin 11) (bit : Bool)
  /-- `fixed(p, bit)` -/
  | fixed (p : Nat) (bit : Bool)
  deriving DecidableEq, Repr

/-- BAND (R354). -/
def bandTable : List (Fin 8) := [0, 1, 2, 3, 6, 4, 5, 6, 6, 6, 6, 6, 6, 6, 6, 7]

/-- `BAND[i]` (R354). -/
def bandAt (i : Nat) : Fin 8 := bandTable.getD i 7

/-- The extra bits of a category token (R352): `e = v - base`, most significant bit first, the j-th at `pcat[j]`. -/
def extraBools (base : Nat) (pcat : List Nat) (v : Nat) : List TokenBool :=
  pcat.mapIdx fun j p => .fixed p ((v - base).testBit (pcat.length - 1 - j))

/-- `extra_bits(v)` (R352). -/
def extraBits (v : Nat) : List TokenBool :=
  if v ≤ 6 then extraBools 5 [159] v
  else if v ≤ 10 then extraBools 7 [165, 145] v
  else if v ≤ 18 then extraBools 11 [173, 148, 140] v
  else if v ≤ 34 then extraBools 19 [176, 155, 140, 135] v
  else if v ≤ 66 then extraBools 35 [180, 157, 141, 134, 130] v
  else extraBools 67 [254, 254, 243, 230, 196, 177, 153, 140, 133, 130, 129] v

/-- `code_magnitude(t, b, k, v)` for v ≥ 1 (R351). -/
def codeMagnitude (t : BlockType) (b : Fin 8) (k : Fin 3) (v : Nat) : List TokenBool :=
  let node (n : Fin 11) (bit : Bool) : TokenBool := .node t b k n bit
  if v ≤ 1 then [node 2 false]
  else if v ≤ 4 then
    if v = 2 then [node 2 true, node 3 false, node 4 false]
    else [node 2 true, node 3 false, node 4 true, node 5 (v == 4)]
  else if v ≤ 10 then [node 2 true, node 3 true, node 6 false, node 7 (decide (6 < v))] ++ extraBits v
  else if v ≤ 34 then [node 2 true, node 3 true, node 6 true, node 8 false, node 9 (decide (18 < v))] ++ extraBits v
  else [node 2 true, node 3 true, node 6 true, node 8 true, node 10 (decide (66 < v))] ++ extraBits v

/-- The walk of R350 from scan position `i` in context `k` over the levels `z[i..last]`. Past the last nonzero level stands the EOB,
unless position 15 was coded. -/
def walkFrom (t : BlockType) : List Int → Nat → Fin 3 → Bool → List TokenBool
  | [], i, k, _ => if i = 16 then [] else [.node t (bandAt i) k 0 false]
  | z :: zs, i, k, skipEob =>
    (if skipEob then [] else [.node t (bandAt i) k 0 true]) ++
    (if z = 0 then .node t (bandAt i) k 1 false :: walkFrom t zs (i + 1) 0 true
     else
      .node t (bandAt i) k 1 true :: codeMagnitude t (bandAt i) k z.natAbs ++ [.fixed 128 (decide (z < 0))] ++
      walkFrom t zs (i + 1) (if z.natAbs = 1 then 1 else 2) false)

/-- The levels `z[first..last]` in scan order: the zeros after the last nonzero level are not coded (R350). -/
def codedLevels (lv : List Int) (first : Nat) : List Int :=
  (((zigzag lv).drop first).reverse.dropWhile (· == 0)).reverse

/-- `walk(lv, first, ctx0, t, emit)`: the booleans and nz (R350). -/
def walkBlock (t : BlockType) (lv : List Int) (ctx0 : Fin 3) : List TokenBool × Bool :=
  let z := codedLevels lv (firstPosition t)
  (walkFrom t z (firstPosition t) ctx0 false, !z.isEmpty)

/-- `ctx0 = above + left` (R360). -/
def firstCtx (above left : Bool) : Fin 3 :=
  if above && left then 2 else if above || left then 1 else 0

/-- The walk of the 4x4 blocks of one plane of a macroblock from block `b` on, `n` blocks a row, with the flags above and to the left,
which are updated block by block (R360, R361). -/
def walkGrid (t : BlockType) (n : Nat) : List (List Int) → Nat → List Bool → List Bool → List TokenBool × List Bool × List Bool
  | [], _, above, left => ([], above, left)
  | lv :: rest, b, above, left =>
    let w := walkBlock t lv (firstCtx (above.getD (b % n) false) (left.getD (b / n) false))
    let more := walkGrid t n rest (b + 1) (above.set (b % n) w.2) (left.set (b / n) w.2)
    (w.1 ++ more.1, more.2)

/-- The contexts at the start of a token walk (R360). -/
def Contexts.start (mbw : Nat) : Contexts :=
  { aboveY := List.replicate mbw (List.replicate 4 false)
    aboveU := List.replicate mbw (List.replicate 2 false)
    aboveV := List.replicate mbw (List.replicate 2 false)
    aboveY2 := List.replicate mbw false
    leftY := List.replicate 4 false
    leftU := List.replicate 2 false
    leftV := List.replicate 2 false
    leftY2 := false }

/-- The contexts at the start of a macroblock row: the left ones are 0 (R360). -/
def Contexts.startRow (x : Contexts) : Contexts :=
  { x with leftY := List.replicate 4 false, leftU := List.replicate 2 false, leftV := List.replicate 2 false, leftY2 := false }

/-- The walk of macroblock column `c`: Y2, the 16 luma blocks, the 4 U blocks, the 4 V blocks (R361). -/
def walkMb (m : MbRecord) (c : Nat) (x : Contexts) : List TokenBool × Contexts :=
  let wy2 := walkBlock .y2 m.y2 (firstCtx (x.aboveY2.getD c false) x.leftY2)
  let wy := walkGrid .yAfterY2 4 m.y 0 (x.aboveY.getD c []) x.leftY
  let wu := walkGrid .chroma 2 m.u 0 (x.aboveU.getD c []) x.leftU
  let wv := walkGrid .chroma 2 m.v 0 (x.aboveV.getD c []) x.leftV
  (wy2.1 ++ wy.1 ++ wu.1 ++ wv.1,
   { aboveY2 := x.aboveY2.set c wy2.2, leftY2 := wy2.2
     aboveY := x.aboveY.set c wy.2.1, leftY := wy.2.2
     aboveU := x.aboveU.set c wu.2.1, leftU := wu.2.2
     aboveV := x.aboveV.set c wv.2.1, leftV := wv.2.2 })

/-- The walk of the macroblocks from raster index `i` on (R361, R392). -/
def walkMbs (mbw : Nat) : List MbRecord → Nat → Contexts → List TokenBool × Contexts
  | [], _, x => ([], x)
  | m :: ms, i, x =>
    let w := walkMb m (i % mbw) (if i % mbw = 0 then x.startRow else x)
    let more := walkMbs mbw ms (i + 1) w.2
    (w.1 ++ more.1, more.2)

/-- `walk_frame` (R362): the booleans of every block of every macroblock, and the contexts it ends with. -/
def walkFrame (mbw : Nat) (mbs : List MbRecord) : List TokenBool × Contexts :=
  walkMbs mbw mbs 0 (Contexts.start mbw)

end Sys2Proof.Machine
end

