-- ==== Sys2Proof/Machine/Entropy.lean ====
section
/-! DEFINITION. Probability adaptation and the two partitions of a frame (44_entropy_coder.md sections 4 to 6). -/

namespace Sys2Proof.Machine

/-- The number of `(t, b, k, n)` entries: 4 * 8 * 3 * 11 (R372). -/
def nodeTotal : Nat := 1056

/-- The place of entry `(t, b, k, n)` in the order of R372. -/
def nodeIndex (t b k n : Nat) : Nat := ((t * 8 + b) * 3 + k) * 11 + n

/-- An entry of the update table by its place in the order of R372: a function of t, b, k, n applied to them. -/
def atNode {α : Type} (f : Nat → Nat → Nat → Nat → α) (i : Nat) : α :=
  f (i / 264) (i / 33 % 8) (i / 11 % 3) (i % 11)

/-- One more boolean counted (R370). -/
def NodeCount.bump (c : NodeCount) (bit : Bool) : NodeCount :=
  if bit then { c with ones := c.ones + 1 } else { c with zeros := c.zeros + 1 }

/-- The counting of one boolean: fixed booleans are not counted (R370). -/
def countBool (counts : List NodeCount) : TokenBool → List NodeCount
  | .fixed _ _ => counts
  | .node t b k n bit => counts.modify (nodeIndex (typeIndex t) b.val k.val n.val) fun c => c.bump bit

/-- The counts of a pass (R370), all starting at 0. -/
def countAll (toks : List TokenBool) : List NodeCount :=
  toks.foldl countBool (List.replicate nodeTotal { zeros := 0, ones := 0 })

/-- `total` of R371. -/
def NodeCount.total (c : NodeCount) : Nat := c.zeros + c.ones

/-- `newp` (R371); read only where total > 0. -/
def newProb (c : NodeCount) : Nat := max 1 (255 - c.ones * 255 / c.total)

/-- Entry `i` of the counts. -/
def countAt (counts : List NodeCount) (i : Nat) : NodeCount := counts.getD i { zeros := 0, ones := 0 }

/-- P, the probabilities the frame is coded with, in the order of R372 (R373). -/
def codingProbs (counts : List NodeCount) : List Byte :=
  (List.range nodeTotal).map fun i =>
    BitVec.ofNat 8 (if 0 < (countAt counts i).total then newProb (countAt counts i) else atNode Config.defaultCoefProb i)

/-- Whether the header codes a new value for entry `i` (R372). -/
def updated (counts : List NodeCount) (i : Nat) : Bool :=
  decide (0 < (countAt counts i).total) && decide (newProb (countAt counts i) ≠ atNode Config.defaultCoefProb i)

/-- The booleans of the token probability updates (R372). -/
def updateBools (counts : List NodeCount) : List (Nat × Bool) :=
  (List.range nodeTotal).flatMap fun i =>
    (atNode Config.coefUpdateProb i, updated counts i) ::
      (if updated counts i then litBools (newProb (countAt counts i)) 8 else [])

/-- Fields 1 to 11 of the first partition: 29 literal bits (R380 to R387). -/
def headerBools (q : QIndex) : List (Nat × Bool) :=
  litBools 0 1 ++ litBools 0 1 ++                                     -- color_space, clamping_type (R387)
  litBools 0 1 ++                                                     -- segmentation_enabled (R381)
  litBools 0 1 ++ litBools 0 6 ++ litBools 0 3 ++ litBools 0 1 ++     -- loop filter fields (R382)
  litBools 0 2 ++                                                     -- log2_nbr_of_dct_partitions (R383)
  litBools q.val 7 ++                                                 -- y_ac_qi (R384)
  litBools 0 1 ++ litBools 0 1 ++ litBools 0 1 ++ litBools 0 1 ++ litBools 0 1 ++   -- the five delta-present flags (R384)
  litBools 0 1                                                        -- refresh_entropy_probs (R385)

/-- The mode booleans of one macroblock (R388). -/
def modeBools (m : MbRecord) : List (Nat × Bool) :=
  (match m.ymode with
    | .dcPred => [(145, true), (156, false), (163, false)]
    | .vPred => [(145, true), (156, false), (163, true)]
    | .hPred => [(145, true), (156, true), (128, false)]
    | .tmPred => [(145, true), (156, true), (128, true)]) ++
  (match m.uvmode with
    | .dcPred => [(142, false)])

/-- The booleans of the first partition, fields 1 to 14 (R380). -/
def firstPartitionBools (q : QIndex) (counts : List NodeCount) (mbs : List MbRecord) : List (Nat × Bool) :=
  headerBools q ++ updateBools counts ++ litBools 0 1 ++ mbs.flatMap modeBools

/-- The probability a token boolean is coded with (R350, R373). -/
def tokenProb (probs : List Byte) : TokenBool → Nat × Bool
  | .fixed p bit => (p, bit)
  | .node t b k n bit => ((probs.getD (nodeIndex (typeIndex t) b.val k.val n.val) 128).toNat, bit)

/-- What one pass's coding leaves (R390): the final contexts, the counts, the probabilities and the two flushed encoders. -/
structure Coded where
  ctx : Contexts
  counts : List NodeCount
  probs : List Byte
  e1 : BoolEnc
  e2 : BoolEnc
  deriving DecidableEq, Repr

/-- The coding of a pass (R390): count, code the first partition into a fresh E1, code the tokens into a fresh E2, flush both. -/
def codeFrame (mbw : Nat) (q : QIndex) (mbs : List MbRecord) : Coded :=
  let walk := walkFrame mbw mbs
  let counts := countAll walk.1
  let probs := codingProbs counts
  { ctx := walk.2
    counts := counts
    probs := probs
    e1 := flushEnc (putAll BoolEnc.init (firstPartitionBools q counts mbs))
    e2 := flushEnc (putAll BoolEnc.init (walk.1.map (tokenProb probs))) }

end Sys2Proof.Machine
end

