-- ==== Sys2Proof/Machine/ColorTransform.lean ====
section
/-! DEFINITION. The Color/Block Transform: RGBA samples of host memory to padded YUV 4:2:0 planes (41_color_transform.md). -/

namespace Sys2Proof.Machine

/-- The colour samples of one pixel; its alpha byte is read and discarded (R229). -/
structure Rgb where
  r : Byte
  g : Byte
  b : Byte
  deriving DecidableEq, Repr

/-- Black, for sample positions outside the image array (no rule reads one). -/
def Rgb.outside : Rgb := { r := 0, g := 0, b := 0 }

/-- The address of byte `j` of pixel (x, y): `src_addr + y*stride + 4*x + j` mod 2^32 (20_memory.md R103, R104). -/
def sourceAddr (c : EncConfig) (x y j : Nat) : Word := addrPlus c.srcAddr (y * c.stride.toNat + 4 * x + j)

/-- The source region of an encode (20_memory.md R112): the bytes R221 reads. -/
def sourceRegion (c : EncConfig) : List Word :=
  (List.range c.h).flatMap fun y => (List.range c.w).flatMap fun x => (List.range 4).map fun j => sourceAddr c x y j

/-- The values a byte held since acceptance besides its present one (R520; log 10). -/
def raceValues (s : State) (a : Nat) : List Byte := (s.srcRace.filter fun c => c.1 == a).map (·.2)

/-- One source byte as CONVERT reads it: the byte in memory, or, where a host store raced with the encode, any value the byte held
since acceptance, a free choice per byte (20_memory.md R117; 70_reset_and_hazards.md R520). -/
def sourceByte (s : State) (a : Word) : Byte :=
  match raceValues s a.toNat with
  | [] => readByte s.mem a.toNat
  | old =>
    (readByte s.mem a.toNat :: old).getD (Config.sourceRaceChoice s.freeCount a.toNat % (old.length + 1)) (readByte s.mem a.toNat)

/-- `MemRead(a, 4)` of pixel (x, y) (R221, R103). -/
def readPixel (s : State) (c : EncConfig) (x y : Nat) : Rgb :=
  { r := sourceByte s (sourceAddr c x y 0), g := sourceByte s (sourceAddr c x y 1), b := sourceByte s (sourceAddr c x y 2) }

/-- The sample arrays R, G, B of R221, row by row. -/
def readSource (s : State) (c : EncConfig) : List (List Rgb) :=
  (List.range c.h).map fun y => (List.range c.w).map fun x => readPixel s c x y

/-- The replicated source sample `px(x, y)` (R222). -/
def px (samples : List (List Rgb)) (w h x y : Nat) : Rgb :=
  (samples.getD (min y (h - 1)) []).getD (min x (w - 1)) Rgb.outside

/-- `Yconv(r, g, b)` (R223). -/
def yConv (p : Rgb) : Byte :=
  clip255 (sar (16839 * sampleInt p.r + 33059 * sampleInt p.g + 6420 * sampleInt p.b + 32768 + 16 * 65536) 16)

/-- The exact U sum of one sample (R224). -/
def uWeight (p : Rgb) : Int := -9719 * sampleInt p.r - 19081 * sampleInt p.g + 28800 * sampleInt p.b

/-- The exact V sum of one sample (R224). -/
def vWeight (p : Rgb) : Int := 28800 * sampleInt p.r - 24116 * sampleInt p.g - 4684 * sampleInt p.b

/-- The rounded chroma value of four samples whose weights sum to `sum` (R224): `+ (1 << 17) + (128 << 18)`, then `>> 18`. -/
def chromaRound (sum : Int) : Byte := clip255 (sar (sum + 131072 + 128 * 262144) 18)

/-- `Uconv4` of a 2x2 group (R224). -/
def uConv4 (g : List Rgb) : Byte := chromaRound (g.map uWeight).sum

/-- `Vconv4` of a 2x2 group (R224). -/
def vConv4 (g : List Rgb) : Byte := chromaRound (g.map vWeight).sum

/-- The 2x2 group of chroma sample (cx, cy) (R226). -/
def chromaGroup (samples : List (List Rgb)) (w h cx cy : Nat) : List Rgb :=
  [px samples w h (2 * cx) (2 * cy), px samples w h (2 * cx + 1) (2 * cy),
   px samples w h (2 * cx) (2 * cy + 1), px samples w h (2 * cx + 1) (2 * cy + 1)]

/-- The padded luma plane Ysrc (R225). -/
def lumaPlane (samples : List (List Rgb)) (c : EncConfig) : Plane :=
  planeOf c.ph c.pw fun y x => yConv (px samples c.w c.h x y)

/-- The chroma plane proper, CW by CH, with one conversion of a group (R226). -/
def chromaProper (conv : List Rgb → Byte) (samples : List (List Rgb)) (c : EncConfig) : Plane :=
  planeOf c.ch c.cw fun cy cx => conv (chromaGroup samples c.w c.h cx cy)

/-- A padded chroma plane: the plane proper with its last row and column repeated (R226). -/
def chromaPlane (conv : List Rgb → Byte) (samples : List (List Rgb)) (c : EncConfig) : Plane :=
  let proper := chromaProper conv samples c
  planeOf (c.ph / 2) (c.pw / 2) fun cy cx => planeAt proper (min cy (c.ch - 1)) (min cx (c.cw - 1))

/-- The source planes of an encode (R220, R227). -/
def convertPlanes (s : State) (ses : Session) : Session :=
  let samples := readSource s ses.cfg
  { ses with
    ySrc := lumaPlane samples ses.cfg
    uSrc := chromaPlane uConv4 samples ses.cfg
    vSrc := chromaPlane vConv4 samples ses.cfg }

end Sys2Proof.Machine
end

