-- ==== Sys2Proof/Machine/Predictor.lean ====
section
/-! DEFINITION. The Macroblock Predictor (42_intra_prediction.md): edge samples, the luma and chroma predictors, and the choice of the luma mode. -/

namespace Sys2Proof.Machine

/-- The edge samples of a macroblock in one plane (R255), with the availability of the neighbours (R254). -/
structure Edges where
  aboveAvail : Bool
  leftAvail : Bool
  above : List Byte
  left : List Byte
  corner : Byte
  deriving DecidableEq, Repr

/-- The edge samples of macroblock (r, c) of a plane with block size `sz` (R255): 127 above the frame, 129 left of it. -/
def edgesAt (rec : Plane) (sz r c : Nat) : Edges :=
  { aboveAvail := decide (0 < r)
    leftAvail := decide (0 < c)
    above := (List.range sz).map fun i => if 0 < r then planeAt rec (sz * r - 1) (sz * c + i) else 127
    left := (List.range sz).map fun j => if 0 < c then planeAt rec (sz * r + j) (sz * c - 1) else 129
    corner := if 0 < r ∧ 0 < c then planeAt rec (sz * r - 1) (sz * c - 1) else if r = 0 then 127 else 129 }

/-- The sum of the samples of an edge. -/
def edgeSum (e : List Byte) : Nat := (e.map BitVec.toNat).sum

/-- The DC value of a block whose edges have `2 ^ lg` samples each: the rounded average of the edges that are available, 128 with none
(R256 with lg = 4, R259 with lg = 3). -/
def dcValue (e : Edges) (lg : Nat) : Byte :=
  if e.aboveAvail ∧ e.leftAvail then BitVec.ofNat 8 ((edgeSum e.above + edgeSum e.left + 2 ^ lg) >>> (lg + 1))
  else if e.aboveAvail then BitVec.ofNat 8 ((edgeSum e.above + 2 ^ (lg - 1)) >>> lg)
  else if e.leftAvail then BitVec.ofNat 8 ((edgeSum e.left + 2 ^ (lg - 1)) >>> lg)
  else 128

/-- The 16x16 luma predictors (R256). -/
def predictLuma (m : LumaMode) (e : Edges) : Plane :=
  match m with
  | .dcPred => planeOf 16 16 fun _ _ => dcValue e 4
  | .vPred => planeOf 16 16 fun _ x => e.above.getD x 0
  | .hPred => planeOf 16 16 fun y _ => e.left.getD y 0
  | .tmPred => planeOf 16 16 fun y x =>
      clip255 (sampleInt (e.left.getD y 0) + sampleInt (e.above.getD x 0) - sampleInt e.corner)

/-- The 8x8 chroma predictor, DC_PRED (R252, R259). -/
def predictChroma (e : Edges) : Plane := planeOf 8 8 fun _ _ => dcValue e 3

/-- The VP8 index of a luma mode (R251). -/
def modeIndex : LumaMode → Nat
  | .dcPred => 0
  | .vPred => 1
  | .hPred => 2
  | .tmPred => 3

/-- The candidate luma modes of a method, in index order (R253). -/
def candidates (method : Nat) : List LumaMode :=
  if method = 0 then [.dcPred]
  else if method ≤ 3 then [.dcPred, .vPred, .hPred]
  else [.dcPred, .vPred, .hPred, .tmPred]

/-- The sum of absolute differences of two 16x16 blocks (R257). -/
def sad (a b : Plane) : Nat :=
  ((List.range 16).flatMap fun y => (List.range 16).map fun x => (sampleInt (planeAt a y x) - sampleInt (planeAt b y x)).natAbs).sum

/-- The cheapest of `best` and the modes after it; an equal cost keeps the earlier one (R257). -/
def cheapest (cost : LumaMode → Nat) (best : LumaMode) : List LumaMode → LumaMode
  | [] => best
  | m :: ms => cheapest cost (if cost m < cost best then m else best) ms

/-- The source luma block of macroblock (r, c), or any block of `sz` by `sz` samples of a plane (41_color_transform.md R228). -/
def blockOf (p : Plane) (sz r c : Nat) : Plane := planeOf sz sz fun y x => planeAt p (sz * r + y) (sz * c + x)

/-- The luma mode of a macroblock (R257). -/
def selectLuma (method : Nat) (src : Plane) (e : Edges) : LumaMode :=
  cheapest (fun m => sad src (predictLuma m e)) .dcPred ((candidates method).drop 1)

/-- A plane with the `sz` by `sz` block at macroblock (r, c) replaced. -/
def setBlock (p : Plane) (sz r c : Nat) (blk : Plane) : Plane :=
  p.mapIdx fun y row =>
    if sz * r ≤ y ∧ y < sz * r + sz then
      row.mapIdx fun x v => if sz * c ≤ x ∧ x < sz * c + sz then planeAt blk (y - sz * r) (x - sz * c) else v
    else row

end Sys2Proof.Machine
end

