-- ==== Sys2Proof/Machine/Quantizer.lean ====
section
/-! DEFINITION. The quantizer and the per-macroblock procedure of a pass (43_transform_quant.md sections 5 and 6; 42_intra_prediction.md R258). -/

namespace Sys2Proof.Machine

/-- The DC step table `dc_q` (R320). -/
def dcTable : List Nat :=
  [4, 5, 6, 7, 8, 9, 10, 10, 11, 12, 13, 14, 15, 16, 17, 17,
   18, 19, 20, 20, 21, 21, 22, 22, 23, 23, 24, 25, 25, 26, 27, 28,
   29, 30, 31, 32, 33, 34, 35, 36, 37, 37, 38, 39, 40, 41, 42, 43,
   44, 45, 46, 46, 47, 48, 49, 50, 51, 52, 53, 54, 55, 56, 57, 58] ++
  [59, 60, 61, 62, 63, 64, 65, 66, 67, 68, 69, 70, 71, 72, 73, 74,
   75, 76, 76, 77, 78, 79, 80, 81, 82, 83, 84, 85, 86, 87, 88, 89,
   91, 93, 95, 96, 98, 100, 101, 102, 104, 106, 108, 110, 112, 114, 116, 118,
   122, 124, 126, 128, 130, 132, 134, 136, 138, 140, 143, 145, 148, 151, 154, 157]

/-- The AC step table `ac_q` (R320). -/
def acTable : List Nat :=
  [4, 5, 6, 7, 8, 9, 10, 11, 12, 13, 14, 15, 16, 17, 18, 19,
   20, 21, 22, 23, 24, 25, 26, 27, 28, 29, 30, 31, 32, 33, 34, 35,
   36, 37, 38, 39, 40, 41, 42, 43, 44, 45, 46, 47, 48, 49, 50, 51,
   52, 53, 54, 55, 56, 57, 58, 60, 62, 64, 66, 68, 70, 72, 74, 76] ++
  [78, 80, 82, 84, 86, 88, 90, 92, 94, 96, 98, 100, 102, 104, 106, 108,
   110, 112, 114, 116, 119, 122, 125, 128, 131, 134, 137, 140, 143, 146, 149, 152,
   155, 158, 161, 164, 167, 170, 173, 177, 181, 185, 189, 193, 197, 201, 205, 209,
   213, 217, 221, 225, 229, 234, 239, 245, 249, 254, 259, 264, 269, 274, 279, 284]

/-- `dc_q[q]` (R320). -/
def dcStep (q : QIndex) : Nat := dcTable.getD q.val 4

/-- `ac_q[q]` (R320). -/
def acStep (q : QIndex) : Nat := acTable.getD q.val 4

/-- Step of luma positions 1..15 (R321). -/
def y1ac (q : QIndex) : Nat := acStep q
/-- Step of Y2 position 0 (R321). -/
def y2dc (q : QIndex) : Nat := 2 * dcStep q
/-- Step of Y2 positions 1..15 (R321). -/
def y2ac (q : QIndex) : Nat := max 8 (acStep q * 155 / 100)
/-- Step of chroma position 0 (R321). -/
def uvdc (q : QIndex) : Nat := min 132 (dcStep q)
/-- Step of chroma positions 1..15 (R321). -/
def uvac (q : QIndex) : Nat := acStep q

/-- `quant(x, s)` (R322). -/
def quant (x : Int) (s : Nat) : Int :=
  signOf x * ((min Config.maxLevel ((x.natAbs + s >>> 1) / s) : Nat) : Int)

/-- `dequant(level, s)` (R323). -/
def dequant (level : Int) (s : Nat) : Int := level * (s : Int)

/-- A function of position and coefficient applied to a block: `dc` at position 0 and `ac` elsewhere. -/
def byKind (dc ac : Int → Int) (c : List Int) : List Int :=
  (List.range 16).map fun k => if k = 0 then dc (coefAt c 0) else ac (coefAt c k)

/-- The residual of the 4x4 block at block row `br` and column `bc` (R292). -/
def residual (src pred : Plane) (br bc : Nat) : List Int :=
  (List.range 16).map fun k =>
    sampleInt (planeAt src (4 * br + k / 4) (4 * bc + k % 4)) - sampleInt (planeAt pred (4 * br + k / 4) (4 * bc + k % 4))

/-- The forward DCTs of the `n` by `n` 4x4 blocks of a block of samples, in raster block order (41_color_transform.md R228). -/
def forwardBlocks (n : Nat) (src pred : Plane) : List (List Int) :=
  (List.range (n * n)).map fun b => fdct (residual src pred (b / n) (b % n))

/-- The luma levels of a macroblock from its forward DCTs (R330): position 0 is stored as 0. -/
def lumaLevels (q : QIndex) (coefs : List (List Int)) : List (List Int) :=
  coefs.map (byKind (fun _ => 0) fun x => quant x (y1ac q))

/-- The Y2 levels of a macroblock from its luma forward DCTs (R331). -/
def y2Levels (q : QIndex) (coefs : List (List Int)) : List Int :=
  byKind (fun x => quant x (y2dc q)) (fun x => quant x (y2ac q)) (fwht (coefs.map fun c => coefAt c 0))

/-- The levels of a chroma plane's four blocks (R332). -/
def chromaLevels (q : QIndex) (coefs : List (List Int)) : List (List Int) :=
  coefs.map (byKind (fun x => quant x (uvdc q)) fun x => quant x (uvac q))

/-- The dequantized luma blocks of a macroblock, their DCs from the inverse WHT (R333). -/
def lumaDequant (q : QIndex) (y2 : List Int) (y : List (List Int)) : List (List Int) :=
  let dcs := iwht (byKind (fun l => dequant l (y2dc q)) (fun l => dequant l (y2ac q)) y2)
  (List.range 16).map fun b => byKind (fun _ => coefAt dcs b) (fun l => dequant l (y1ac q)) (y.getD b [])

/-- The dequantized blocks of a chroma plane (R333). -/
def chromaDequant (q : QIndex) (x : List (List Int)) : List (List Int) :=
  x.map (byKind (fun l => dequant l (uvdc q)) fun l => dequant l (uvac q))

/-- The reconstruction of `n` by `n` 4x4 blocks on their prediction (R334). -/
def reconstruct (n : Nat) (pred : Plane) (coefs : List (List Int)) : Plane :=
  let res := coefs.map idct
  planeOf (4 * n) (4 * n) fun y x =>
    clip255 (sampleInt (planeAt pred y x) + coefAt (res.getD (n * (y / 4) + x / 4) []) (4 * (y % 4) + x % 4))

/-- The reconstruction planes of the current pass (10_state.md R63). -/
structure Recon where
  y : Plane
  u : Plane
  v : Plane
  deriving DecidableEq, Repr

/-- The reconstruction planes at the start of a pass: no sample is reconstructed, and no rule reads one before it is (R260; log 16). -/
def Recon.start (c : EncConfig) : Recon :=
  { y := planeOf c.ph c.pw fun _ _ => 0
    u := planeOf (c.ph / 2) (c.pw / 2) fun _ _ => 0
    v := planeOf (c.ph / 2) (c.pw / 2) fun _ _ => 0 }

/-- The source planes of an encode (10_state.md R62). -/
structure SourcePlanes where
  y : Plane
  u : Plane
  v : Plane
  deriving DecidableEq, Repr

/-- The record of macroblock (r, c) and the reconstruction after it (42_intra_prediction.md R258, 43_transform_quant.md R330 to R334). -/
def analyseMb (method : Nat) (q : QIndex) (src : SourcePlanes) (rec : Recon) (r c : Nat) : Recon × MbRecord :=
  let eY := edgesAt rec.y 16 r c
  let srcY := blockOf src.y 16 r c
  let mode := selectLuma method srcY eY
  let predY := predictLuma mode eY
  let predU := predictChroma (edgesAt rec.u 8 r c)
  let predV := predictChroma (edgesAt rec.v 8 r c)
  let coefs := forwardBlocks 4 srcY predY
  let y := lumaLevels q coefs
  let y2 := y2Levels q coefs
  let u := chromaLevels q (forwardBlocks 2 (blockOf src.u 8 r c) predU)
  let v := chromaLevels q (forwardBlocks 2 (blockOf src.v 8 r c) predV)
  ({ y := setBlock rec.y 16 r c (reconstruct 4 predY (lumaDequant q y2 y))
     u := setBlock rec.u 8 r c (reconstruct 2 predU (chromaDequant q u))
     v := setBlock rec.v 8 r c (reconstruct 2 predV (chromaDequant q v)) },
   { ymode := mode, uvmode := .dcPred, q := q, y2 := y2, y := y, u := u, v := v })

/-- The macroblock positions of a frame in raster order (42_intra_prediction.md R250). -/
def rasterOrder (mbw mbh : Nat) : List (Nat × Nat) :=
  (List.range mbh).flatMap fun r => (List.range mbw).map fun c => (r, c)

/-- The analysis of a pass: every macroblock in raster order, each reading the reconstruction of the earlier ones (40_commands.md R192). -/
def analyseFrom (method : Nat) (q : QIndex) (src : SourcePlanes) : List (Nat × Nat) → Recon → Recon × List MbRecord
  | [], rec => (rec, [])
  | p :: ps, rec =>
    let one := analyseMb method q src rec p.1 p.2
    let more := analyseFrom method q src ps one.1
    (more.1, one.2 :: more.2)

/-- The analysis of a whole frame at index `q` (40_commands.md R192). -/
def analyseFrame (cfg : EncConfig) (q : QIndex) (src : SourcePlanes) : Recon × List MbRecord :=
  analyseFrom cfg.method q src (rasterOrder cfg.mbw cfg.mbh) (Recon.start cfg)

end Sys2Proof.Machine
end

