-- ==== Sys2Proof/Machine/RateControl.lean ====
section
/-! DEFINITION. The Rate Controller (45_rate_control.md). -/

namespace Sys2Proof.Machine

/-- `q0(Q)` (R401), in 0..127 for Q in 0..100. -/
def qualityIndex (quality : Nat) : QIndex := Fin.ofNat 128 (127 - 127 * isqrt (100 * quality) / 100)

/-- Initialisation at the end of CONVERT (R404). -/
def rateInit (ses : Session) : Session :=
  { ses with
    k := 0
    best := none
    q := qualityIndex ses.cfg.quality
    mode := if ses.cfg.target = 0 then .default else .target
    lo := 0
    hi := 127 }

/-- `within(S, T)`: `20 * abs(S - T) <= T` (R406). -/
def within (size target : Nat) : Bool :=
  decide (Config.tolDen * ((size : Int) - (target : Int)).natAbs ≤ Config.tolNum * (target : Int))

/-- The distance of a size from the target (R408). -/
def missBy (size target : Nat) : Nat := ((size : Int) - (target : Int)).natAbs

/-- The closest result so far after a pass (R408): strict comparison, so the earliest of equals stays. -/
def closest (mode : RateMode) (target : Nat) (best : Option PassResult) (r : PassResult) : PassResult :=
  match mode, best with
  | .default, _ => r
  | .target, none => r
  | .target, some b => if missBy r.size target < missBy b.size target then r else b

/-- What the rate controller decides after a pass (R409). -/
inductive RateVerdict where
  /-- phase WRITE is next -/
  | stop
  /-- another pass at index `q` -/
  | again (q : QIndex)
  deriving DecidableEq, Repr

/-- The search interval after a pass at `q` that gave `size` (R409). -/
def narrowed (lo hi : Int) (q : QIndex) (size target : Nat) : Int × Int :=
  if target < size then ((q.val : Int) + 1, hi) else (lo, (q.val : Int) - 1)

/-- The middle of the search interval (R409). -/
def midIndex (lo hi : Int) : QIndex := Fin.ofNat 128 (sar (lo + hi) 1).toNat

/-- Whether the loop stops before it narrows its interval (R409's first two lines). -/
def stopsAtOnce (mode : RateMode) (size target : Nat) : Bool :=
  match mode with
  | .default => true
  | .target => within size target

/-- The step after a pass (R405, R408, R409): `k` counts it, `best` may become it, and the verdict follows. -/
def rateStep (ses : Session) (r : PassResult) : Session × RateVerdict :=
  let target := ses.cfg.target.toNat
  let k := ses.k + 1
  let kept := { ses with k := k, best := some (closest ses.mode target ses.best r) }
  if stopsAtOnce ses.mode r.size target then (kept, .stop)
  else
    let range := narrowed ses.lo ses.hi ses.q r.size target
    let moved := { kept with lo := range.1, hi := range.2 }
    if range.2 < range.1 ∨ Config.maxPasses ≤ k then (moved, .stop)
    else ({ moved with q := midIndex range.1 range.2 }, .again (midIndex range.1 range.2))

end Sys2Proof.Machine
end

