-- ==== Sys2Proof/Machine/Sequencer.lean ====
section
/-! DEFINITION. The sequencer: one transition per phase (40_commands.md R190 to R194), with the checks of 60_exceptions.md R466. -/

namespace Sys2Proof.Machine

/-- InvalidDimensions (60_exceptions.md R461). -/
def badDimensions (c : EncConfig) : Bool :=
  decide (c.width ≤ 0) || decide (c.height ≤ 0) || decide (Config.maxDim < c.width) || decide (Config.maxDim < c.height)

/-- BufferTooSmall (60_exceptions.md R463), on exact integers. -/
def bufferTooSmall (c : EncConfig) : Bool :=
  decide ((c.stride.toNat : Int) < 4 * c.width) || decide ((c.srcLen.toNat : Int) < (c.stride.toNat : Int) * c.height)

/-- `check(cfg)`: the first failing check, in the order of R466. -/
def checkConfig (c : EncConfig) : Option ErrorCode :=
  if badDimensions c then some .invalidDimensions
  else if c.format ≠ 0 then some .unsupportedPixelFormat
  else if bufferTooSmall c then some .bufferTooSmall
  else none

/-- The destination region of an encode (20_memory.md R112). -/
def destRegion (c : EncConfig) : List Word := (List.range c.dstCap.toNat).map (addrPlus c.dstAddr)

/-- Whether the source or the destination region overlaps the register window (20_memory.md R113): the rows of the source, and the
destination's `dst_cap` bytes. -/
def buffersMeetWindow (p : Platform) (c : EncConfig) : Bool :=
  ((List.range c.h).any fun y => meetsWindow p (sourceAddr c 0 y 0) (4 * c.w)) || meetsWindow p c.dstAddr c.dstCap.toNat

/-- The host programs the spec has no move for, by the placement of their buffers (20_memory.md R113, R109): looked at when the checks
have passed, which is when the regions are defined (log 7, log 8). -/
def unsupportedRegion (p : Platform) (c : EncConfig) : Option Refusal :=
  if buffersMeetWindow p c then some .bufferOverRegisterWindow
  else if touchesDevice p (sourceRegion c) then some .sourceInDeviceMemory
  else none

/-- Phase CHECK (R190). -/
def stepCheck (s : State) : Host.Outcome State Fault Refusal :=
  match checkConfig s.session.cfg with
  | some code => .next (raiseError code s)
  | none =>
    match unsupportedRegion s.platform s.session.cfg with
    | some r => .refused r
    | none => .next { s with phase := .convert }

/-- Phase CONVERT (R191): the planes and the rate controller's start. With a source byte the platform does not admit there is no step:
the block stays as it is (20_memory.md R110, R194). -/
def stepConvert (s : State) : Host.Outcome State Fault Refusal :=
  if admitted s.platform (sourceRegion s.session.cfg) then
    .next { s with
      session := rateInit (convertPlanes s s.session)
      phase := .pass
      freeCount := s.freeCount + 1 }
  else .next s

/-- The source planes a session holds. -/
def Session.source (ses : Session) : SourcePlanes := { y := ses.ySrc, u := ses.uSrc, v := ses.vSrc }

/-- The internal state a pass writes (10_state.md R63 to R67), at the session's index. -/
def runPass (ses : Session) : Session :=
  let frame := analyseFrame ses.cfg ses.q ses.source
  let coded := codeFrame ses.cfg.mbw ses.q frame.2
  { ses with
    yRec := frame.1.y, uRec := frame.1.u, vRec := frame.1.v
    mbs := frame.2
    ctx := coded.ctx, counts := coded.counts, probs := coded.probs, e1 := coded.e1, e2 := coded.e2 }

/-- The payload of the pass a session holds (44_entropy_coder.md R390). -/
def Session.payload (ses : Session) : List Byte := payloadOf ses.e1.out ses.e2.out ses.cfg.w ses.cfg.h

/-- PayloadTooLarge (60_exceptions.md R464): the first partition does not fit the frame tag, or the RIFF size its field. -/
def payloadTooLarge (ses : Session) : Bool :=
  decide (2 ^ 19 ≤ ses.e1.out.length) || decide (0xFFFFFFFF < riffSize ses.payload.length)

/-- The result of the pass a session holds (45_rate_control.md R405). -/
def Session.result (ses : Session) : PassResult :=
  { file := webpFile ses.payload, size := (webpFile ses.payload).length, q := ses.q, payloadLen := ses.payload.length }

/-- The phase a verdict of the rate controller leads to (45_rate_control.md R409). -/
def phaseAfter : RateVerdict → Phase
  | .stop => .write
  | .again _ => .pass

/-- Phase PASS, one pass (R192). -/
def stepPass (s : State) : Host.Outcome State Fault Refusal :=
  let ses := runPass s.session
  if payloadTooLarge ses then .next (raiseError .payloadTooLarge s)
  else
    let rated := rateStep ses ses.result
    .next { s with session := rated.1, phase := phaseAfter rated.2 }

/-- Phase WRITE (R193, 46_container.md R440): the overflow check, then every byte of the file, then completion. With a destination byte
the platform does not admit there is no step (20_memory.md R110). What a device does with a byte it is sent is not modelled (log 8). -/
def stepWrite (s : State) : Host.Outcome State Fault Refusal :=
  match s.session.best with
  | none => .fault .writeWithoutResult
  | some best =>
    if s.session.cfg.dstCap.toNat < best.size then .next (raiseError .encodingOverflow s)
    else
      let addrs := (List.range best.size).map (addrPlus s.session.cfg.dstAddr)
      if admitted s.platform addrs then
        .next (complete best
          { s with mem := writeCells s.mem (writtenCells s best.file), freeCount := s.freeCount + 1 })
      else .next s

/-- The block's next transition (R194). While IDLE it has none. -/
def stepBlock (s : State) : Host.Outcome State Fault Refusal :=
  match s.phase with
  | .idle => .next s
  | .check => stepCheck s
  | .convert => stepConvert s
  | .pass => stepPass s
  | .write => stepWrite s

end Sys2Proof.Machine
end

