-- ==== Sys2Proof/Machine/Step.lean ====
section
/-! DEFINITION. One step of the machine: what the pending inputs say happens next, or, with none pending, the block's own next transition
(40_commands.md R194; log 4). -/

namespace Sys2Proof.Machine

/-- One step (R194). The input that is taken is gone before its effect. -/
def step (s : State) : Host.Outcome State Fault Refusal :=
  match s.inputs with
  | [] => stepBlock s
  | .bus a :: rest => busStep a { s with inputs := rest }
  | .block :: rest => stepBlock { s with inputs := rest }
  | .reset :: rest => .next (resetBlock { s with inputs := rest })
  | .hostStore a b :: rest => hostStore a b { s with inputs := rest }
  | .hostLoad a :: rest => hostLoad a { s with inputs := rest }
  | .cacheClean a :: rest => cacheClean a { s with inputs := rest }
  | .cacheInvalidate a :: rest => cacheInvalidate a { s with inputs := rest }

/-- A state whose very next step runs the instruction with bits `w`: the access those bits stand for is the host's next input. -/
def State.withFetchWord (s : State) (nbits w : Nat) : State :=
  match tableAccess nbits w with
  | some a => { s with inputs := .bus a :: s.inputs }
  | none => s

end Sys2Proof.Machine
end

