-- ==== Sys2Proof/Safety.lean ====
section
/-! DEFINITION. What claims call a good state, a finished run, a supported host program and an exact coder. -/

namespace Sys2Proof.Machine

/-- At most one of BUSY, DONE, ERR is 1 (10_state.md R46). -/
def exclusiveFlags (s : State) : Prop :=
  ¬(s.busy = true ∧ s.done = true) ∧ ¬(s.busy = true ∧ s.err = true) ∧ ¬(s.done = true ∧ s.err = true)

/-- The register file as 10_state.md describes it in every state a run reaches: reserved bits read 0 (R44, R46, R47, R50, R51), BUSY is 1
exactly when the phase is not IDLE (R70), at most one of BUSY, DONE, ERR is 1 (R46), ERR goes with a nonzero code of 1..5 (R47, R460),
and the result registers are 0 unless DONE (R48 to R51). -/
def RegsInv (s : State) : Prop :=
  s.regs.ctrl.toNat < 2 ∧ s.regs.status.toNat < 32 ∧ s.regs.errCode.toNat ≤ 5 ∧
  s.regs.qUsed.toNat < 128 ∧ s.regs.passes.toNat ≤ 8 ∧
  (s.busy = true ↔ s.phase ≠ .idle) ∧ exclusiveFlags s ∧ (s.err = true ↔ s.regs.errCode ≠ 0) ∧
  (s.done = false → s.regs.outLen = 0 ∧ s.regs.payloadLen = 0 ∧ s.regs.qUsed = 0 ∧ s.regs.passes = 0)

/-- The rate controller between passes (45_rate_control.md R407, R409): fewer than MAX_PASSES passes have run when another starts, the
index lies in the search interval, and from WRITE on at least one pass has left a result. -/
def RateInv (s : State) : Prop :=
  (s.phase = .pass →
    s.session.k < Config.maxPasses ∧ 0 ≤ s.session.lo ∧ s.session.lo ≤ (s.session.q.val : Int) ∧
    (s.session.q.val : Int) ≤ s.session.hi ∧ s.session.hi ≤ 127) ∧
  (s.phase = .write → 1 ≤ s.session.k ∧ s.session.k ≤ Config.maxPasses ∧ s.session.best ≠ none)

/-- After CHECK the snapshot is legal (40_commands.md R190; 10_state.md R61). -/
def ConfigInv (s : State) : Prop :=
  s.phase = .convert ∨ s.phase = .pass ∨ s.phase = .write → checkConfig s.session.cfg = none

/-- A kept result is what a single pass at its index gives (45_rate_control.md R410). -/
def BestInv (s : State) : Prop :=
  s.phase = .pass ∨ s.phase = .write →
    ∀ b, s.session.best = some b → b = (runPass { s.session with q := b.q }).result

/-- The invariant of the machine. -/
def MachineInv (s : State) : Prop := RegsInv s ∧ RateInv s ∧ ConfigInv s

/-- A run is over (40_commands.md R199). -/
def Settled (s : State) : Prop := s.phase = .idle ∧ s.busy = false ∧ (s.done = true ↔ s.err = false)

/-- A host program and a platform on which no access of an encode is refused or left without a step: both regions lie in ordinary
memory, away from the register window (20_memory.md R109, R110, R113). -/
def Supported (p : Platform) (c : EncConfig) : Prop :=
  (∀ a ∈ sourceRegion c, inRegisterWindow p a = false ∧ regionKind p a = .ram) ∧
  (∀ a ∈ destRegion c, inRegisterWindow p a = false ∧ regionKind p a = .ram)

/-- No host store raced with the encode (70_reset_and_hazards.md R520, R521). -/
def RaceFree (s : State) : Prop := s.srcRace = [] ∧ s.dstRace = []

/-- Everything outside the block is as before: host memory, the platform, what happens next and the host's own fields. -/
def SameOutside (s t : State) : Prop :=
  t.mem = s.mem ∧ t.platform = s.platform ∧ t.inputs = s.inputs ∧ t.busData = s.busData ∧ t.hostByte = s.hostByte ∧
  t.hostCache = s.hostCache ∧ t.freeCount = s.freeCount

/-- The registers the host writes, CTRL and the configuration registers (10_state.md R43, R44), are as before. -/
def SameConfigRegs (g h : Regs) : Prop :=
  h.ctrl = g.ctrl ∧ h.srcAddr = g.srcAddr ∧ h.srcLen = g.srcLen ∧ h.stride = g.stride ∧ h.width = g.width ∧ h.height = g.height ∧
  h.format = g.format ∧ h.quality = g.quality ∧ h.method = g.method ∧ h.targetSize = g.targetSize ∧ h.dstAddr = g.dstAddr ∧
  h.dstCap = g.dstCap

/-- STATUS bits 31:5 are as before (10_state.md R46). -/
def SameReservedStatus (s t : State) : Prop := ∀ i, 5 ≤ i → t.regs.status.getLsbD i = s.regs.status.getLsbD i

/-- OUT_LEN, PAYLOAD_LEN, Q_USED and PASSES are 0 (10_state.md R48 to R51). -/
def ResultsZero (g : Regs) : Prop := g.outLen = 0 ∧ g.payloadLen = 0 ∧ g.qUsed = 0 ∧ g.passes = 0

/-- `t` is `s` after the acceptance of an encode with configuration `cfg` (40_commands.md R183), with the model's records of raced bytes empty
(logs 10, 11). -/
def Accepted (cfg : EncConfig) (s t : State) : Prop :=
  t.session.cfg = cfg ∧ t.phase = .check ∧ t.busy = true ∧ t.done = false ∧ t.err = false ∧ t.cmdDropped = s.cmdDropped ∧
  t.badCmd = s.badCmd ∧ t.regs.errCode = 0 ∧ ResultsZero t.regs ∧ t.irq = false ∧ SameConfigRegs s.regs t.regs ∧
  SameReservedStatus s t ∧ SameOutside s t ∧ t.srcRace = [] ∧ t.dstRace = []

/-- `t` is `s` after error entry with a code (60_exceptions.md R470), but for the internal state, which is discarded. -/
def Errored (code : Word) (s t : State) : Prop :=
  t.phase = .idle ∧ t.regs.errCode = code ∧ t.err = true ∧ t.busy = false ∧ t.done = false ∧ t.cmdDropped = s.cmdDropped ∧
  t.badCmd = s.badCmd ∧ t.regs.outLen = s.regs.outLen ∧ t.regs.payloadLen = s.regs.payloadLen ∧ t.regs.qUsed = s.regs.qUsed ∧
  t.regs.passes = s.regs.passes ∧ t.irq = s.irqEn ∧ SameConfigRegs s.regs t.regs ∧ SameReservedStatus s t ∧ SameOutside s t

/-- The values a source byte read may return: those the byte held since acceptance, its present one among them
(70_reset_and_hazards.md R520). -/
def heldValues (s : State) (a : Nat) : List Byte := readByte s.mem a :: raceValues s a

/-- The entries of `z` at the positions `first` and above, in the order the tokens code them, are those of `w`. -/
def SameCoded (first : Nat) (z w : List Int) : Prop := ∀ i, first ≤ i → i < 16 → coefAt (zigzag z) i = coefAt (zigzag w) i

/-- A plane of `h` rows of `w` samples. -/
def Sized (p : Plane) (h w : Nat) : Prop := p.length = h ∧ ∀ row ∈ p, row.length = w

/-- A bool encoder that keeps its interval's lower end as one exact integer and never moves a byte: what R341 computes without the
byte-wise carry of R342. -/
structure ExactCoder where
  low : Nat
  range : Nat
  shifts : Nat
  deriving DecidableEq, Repr

/-- The exact coder's start (44_entropy_coder.md R340). -/
def ExactCoder.init : ExactCoder := { low := 0, range := 255, shifts := 0 }

/-- Doubling until the range is at least 128, at most `fuel` times. -/
def ExactCoder.normalise : Nat → ExactCoder → ExactCoder
  | 0, e => e
  | fuel + 1, e =>
    if e.range < 128 then ExactCoder.normalise fuel { low := e.low * 2, range := e.range * 2, shifts := e.shifts + 1 } else e

/-- One boolean of the exact coder (R341). -/
def ExactCoder.put (e : ExactCoder) (p : Nat) (bit : Bool) : ExactCoder :=
  let split := splitOf e.range p
  ExactCoder.normalise 7
    (if bit then { e with low := e.low + split, range := e.range - split } else { e with range := split })

/-- A sequence of booleans put into the exact coder. -/
def ExactCoder.putAll (e : ExactCoder) (bs : List (Nat × Bool)) : ExactCoder := bs.foldl (fun acc b => acc.put b.1 b.2) e

/-- A byte string as one big-endian number. -/
def beValue (bytes : List Byte) : Nat := bytes.foldl (fun acc b => acc * 256 + b.toNat) 0

end Sys2Proof.Machine
end

