-- ==== Sys2Proof/Certificates/Slice0/Obligations.lean ====
section
/-! DEFINITION. The statements for the provers, each about the machine and none about a program. -/

open Sys2Proof Sys2Proof.Machine

/-! Reset, registers and decoding. -/

/-- R71: what every register reads after reset, the interrupt output and the phase. R71 leaves the internal state unspecified, so the model's
values for it are no part of this. -/
def Obligations.ResetState : Prop :=
  (∀ r, readReg r State.reset.regs = if r = .id then 0x56503845 else if r = .method then 4 else 0) ∧
  State.reset.irq = false ∧ State.reset.phase = .idle

/-- R510, R512: the reset input, in any phase and before any step, puts the register file, the phase and the interrupt output at the values of
R71, with the same effect whatever the state was, and touches no host memory. That the platform, the pending inputs and the host's own fields stay
is the model's choice (log 25). -/
def Obligations.ResetInput : Prop :=
  ∀ (s : State) (rest : List Input), s.inputs = .reset :: rest →
    ∃ t, step s = .next t ∧ (∀ r, readReg r t.regs = readReg r State.reset.regs) ∧ t.phase = .idle ∧ t.irq = false ∧
      t.inputs = rest ∧ t.mem = s.mem ∧ t.platform = s.platform ∧ t.busData = s.busData ∧ t.hostByte = s.hostByte ∧
      t.hostCache = s.hostCache

/-- RD at every offset that is a multiple of 4 answers a next state in which nothing but the read data has changed, and what the data is: each
register of the map at its offset, 0 for CMD, 0 from 0x50 on. -/
def Obligations.RdReturnsTheRegister : Prop :=
  ∀ s : State,
    (∀ e ∈ [((0x00 : Offset), (0x56503845 : Word)), (0x04, s.regs.ctrl), (0x08, 0), (0x0C, s.regs.status), (0x10, s.regs.errCode),
        (0x14, s.regs.srcAddr), (0x18, s.regs.srcLen), (0x1C, s.regs.stride), (0x20, s.regs.width), (0x24, s.regs.height),
        (0x28, s.regs.format), (0x2C, s.regs.quality), (0x30, s.regs.method), (0x34, s.regs.targetSize), (0x38, s.regs.dstAddr),
        (0x3C, s.regs.dstCap), (0x40, s.regs.outLen), (0x44, s.regs.qUsed), (0x48, s.regs.passes), (0x4C, s.regs.payloadLen)],
      exec (.rd e.1) s = .next { s with busData := e.2 }) ∧
    (∀ o : Offset, 0x50 ≤ o.toNat → o.toNat % 4 = 0 → exec (.rd o) s = .next { s with busData := 0 })

/-- WR at every offset that is a multiple of 4, CMD's apart, answers a next state: a configuration register stores all 32 bits, CTRL its bit 0,
and a write to a read-only register or from 0x50 on changes nothing. -/
def Obligations.WrStoresTheRegister : Prop :=
  ∀ (s : State) (d : Word),
    (∀ e ∈ [((0x04 : Offset), { s.regs with ctrl := d &&& 1 }), (0x14, { s.regs with srcAddr := d }), (0x18, { s.regs with srcLen := d }),
        (0x1C, { s.regs with stride := d }), (0x20, { s.regs with width := d }), (0x24, { s.regs with height := d }),
        (0x28, { s.regs with format := d }), (0x2C, { s.regs with quality := d }), (0x30, { s.regs with method := d }),
        (0x34, { s.regs with targetSize := d }), (0x38, { s.regs with dstAddr := d }), (0x3C, { s.regs with dstCap := d })],
      exec (.wr e.1 d) s = .next { s with regs := e.2 }) ∧
    (∀ o : Offset, o ∈ [(0x00 : Offset), 0x0C, 0x10, 0x40, 0x44, 0x48, 0x4C] ∨ (0x50 ≤ o.toNat ∧ o.toNat % 4 = 0) →
      exec (.wr o d) s = .next s)

/-- R44: CTRL's one bit enables the interrupt, its other bits ignore writes and read 0, and it is 0 after reset. -/
def Obligations.CtrlHasOneBit : Prop :=
  State.reset.regs.ctrl = 0 ∧
  ∀ (s : State) (d : Word), ∃ t, exec (.wr 0x04 d) s = .next t ∧
    exec (.rd 0x04) t = .next { t with busData := d &&& 1 } ∧
    t.irq = (d.getLsbD 0 && (s.done || s.err))

/-- R180: what a write of `w` to CMD does, in the order of its cases: a reserved word, NOP, a command while BUSY, a command. -/
def Obligations.CmdWriteIssuesTheWord : Prop :=
  ∀ (w : Word) (s : State),
    exec (.wr 0x08 w) s =
      if w.toNat / 256 ≠ 0 ∨ 0x03 < w.toNat % 256 then .next { s with regs := { s.regs with status := s.regs.status ||| 0x10 } }
      else if w.toNat % 256 = 0x00 then .next s
      else if s.busy then .next { s with regs := { s.regs with status := s.regs.status ||| 0x08 } }
      else if w.toNat % 256 = 0x01 then exec .encode s
      else if w.toNat % 256 = 0x02 then exec .encodeSimple s
      else exec .clear s

/-- R106: a register access that is not 32 bits wide or not at a multiple of 4 is refused, as a bus access and as an instruction; a 32-bit access
at a multiple of 4 carries an instruction. R100, with the model's choices of logs 7 and 26: a host load or store of a byte in the register window,
the 4 KiB from REG_BASE, is such a narrow access, a cache operation there is refused alike, and so are all four outside the window where there is
no ordinary memory. -/
def Obligations.UnsupportedAccessRefused : Prop :=
  (∀ (s : State) (rest : List Input) (o : Offset) (n : Nat), s.inputs = .bus (.read o n) :: rest → n ≠ 4 ∨ o.toNat % 4 ≠ 0 →
    ∃ r, step s = .refused r) ∧
  (∀ (s : State) (rest : List Input) (o : Offset) (bytes : List Byte), s.inputs = .bus (.write o bytes) :: rest →
    bytes.length ≠ 4 ∨ o.toNat % 4 ≠ 0 → ∃ r, step s = .refused r) ∧
  (∀ (s : State) (o : Offset) (d : Word), o.toNat % 4 ≠ 0 →
    exec (.rd o) s = .refused .misalignedRegisterAccess ∧ exec (.wr o d) s = .refused .misalignedRegisterAccess) ∧
  (∀ (o : Offset) (bytes : List Byte), bytes.length = 4 → o.toNat % 4 = 0 →
    decode (.read o 4) = .instr (.rd o) ∧ ∃ i, decode (.write o bytes) = .instr i) ∧
  (∀ (s : State) (rest : List Input) (a : Word) (b : Byte) (x : Input), s.inputs = x :: rest →
    x ∈ [.hostStore a b, .hostLoad a, .cacheClean a, .cacheInvalidate a] →
    ((a - s.platform.regBase).toNat < 4096 → step s = .refused .narrowRegisterAccess) ∧
    (4096 ≤ (a - s.platform.regBase).toNat → regionKind s.platform a ≠ .ram → step s = .refused .hostAccessOutsideRam))

/-- A step whose next input is an access that carries an instruction runs exactly that instruction, with the input taken, and the instruction is
well formed. R194, with the model's list of inputs (log 4): a step whose next input says that the block moves, or that has no input left, is the
block's next transition, and while IDLE that changes nothing; what the block's transition does is the same whatever inputs are pending, and it
leaves them pending. -/
def Obligations.StepRunsTheDecodedInstruction : Prop :=
  (∀ (s : State) (a : BusAccess) (rest : List Input) (i : Instr), s.inputs = .bus a :: rest → decode a = .instr i →
    i.WellFormed ∧ step s = exec i { s with inputs := rest }) ∧
  (∀ (s : State) (rest : List Input), s.inputs = .block :: rest → step s = stepBlock { s with inputs := rest }) ∧
  (∀ s : State, s.inputs = [] → step s = stepBlock s) ∧
  (∀ s : State, s.phase = .idle → stepBlock s = .next s) ∧
  (∀ (s : State) (l : List Input),
    (∀ t, stepBlock s = .next t → stepBlock { s with inputs := l } = .next { t with inputs := l }) ∧
    (∀ f, stepBlock s = .fault f → stepBlock { s with inputs := l } = .fault f) ∧
    (∀ r, stepBlock s = .refused r → stepBlock { s with inputs := l } = .refused r))

/-- The four command words of R143 and a register access of each direction, their bytes written out, decode to their instructions. -/
def Obligations.KnownAccessesDecode : Prop :=
  decode (.write 0x008 [0x00, 0x00, 0x00, 0x00]) = .instr .nop ∧
  decode (.write 0x008 [0x01, 0x00, 0x00, 0x00]) = .instr .encode ∧
  decode (.write 0x008 [0x02, 0x00, 0x00, 0x00]) = .instr .encodeSimple ∧
  decode (.write 0x008 [0x03, 0x00, 0x00, 0x00]) = .instr .clear ∧
  decode (.write 0x008 [0x03, 0x01, 0x00, 0x00]) = .instr (.wr 0x008 0x00000103) ∧
  decode (.write 0x020 [0x78, 0x56, 0x34, 0x12]) = .instr (.wr 0x020 0x12345678) ∧
  decode (.read 0x00C 4) = .instr (.rd 0x00C)

/-- Decoding the access that carries a well-formed instruction gives the instruction back, with every operand. -/
def Obligations.DecodeOfEncode : Prop := ∀ i : Instr, i.WellFormed → decode (encode i) = .instr i

/-- Every access that decodes is the one access its instruction is carried by. -/
def Obligations.EncodeOfDecode : Prop := ∀ (a : BusAccess) (i : Instr), decode a = .instr i → encode i = a

/-! The commands. -/

/-- R185: NOP, BUSY or not, leaves every piece of state as it was. -/
def Obligations.NopChangesNothing : Prop := ∀ s : State, exec .nop s = .next s ∧ exec (.wr 0x08 0) s = .next s

/-- R183 for ENCODE: while BUSY = 0 it answers a next state, the acceptance of the configuration of R186. That acceptance empties the records of
raced bytes is the model's choice (logs 10, 11). -/
def Obligations.EncodeIsAccepted : Prop :=
  ∀ s : State, s.busy = false →
    ∃ t, exec .encode s = .next t ∧
      Accepted
        { srcAddr := s.regs.srcAddr, srcLen := s.regs.srcLen, stride := s.regs.stride, width := s.regs.width.toInt,
          height := s.regs.height.toInt, format := s.regs.format, quality := min s.regs.quality.toNat 100,
          method := min s.regs.method.toNat 6, target := s.regs.targetSize, dstAddr := s.regs.dstAddr, dstCap := s.regs.dstCap } s t

/-- ENCODE_SIMPLE while BUSY = 0 answers a next state, the acceptance of the configuration of R187; its stride is 4 * w mod 2^32, and CHECK cannot
find its pixel format unsupported. That acceptance empties the records of raced bytes is the model's choice (logs 10, 11). -/
def Obligations.EncodeSimpleIsAccepted : Prop :=
  ∀ s : State, s.busy = false →
    ∃ t, exec .encodeSimple s = .next t ∧ checkConfig t.session.cfg ≠ some .unsupportedPixelFormat ∧
      Accepted
        { srcAddr := s.regs.srcAddr, srcLen := s.regs.srcLen, stride := 4#32 * s.regs.width, width := s.regs.width.toInt,
          height := s.regs.height.toInt, format := 0, quality := min s.regs.quality.toNat 100, method := 4, target := 0,
          dstAddr := s.regs.dstAddr, dstCap := s.regs.dstCap } s t

/-- R188: CLEAR while BUSY = 0 clears the four flags, the error code and the result registers, lowers the interrupt, and changes nothing else,
host memory included; while BUSY it is dropped and sets CMD_DROPPED. -/
def Obligations.ClearAcknowledges : Prop :=
  (∀ s : State, s.busy = false →
    ∃ t, exec .clear s = .next t ∧ t.busy = false ∧ t.done = false ∧ t.err = false ∧ t.cmdDropped = false ∧ t.badCmd = false ∧
      t.regs.errCode = 0 ∧ ResultsZero t.regs ∧ t.irq = false ∧ SameConfigRegs s.regs t.regs ∧ SameReservedStatus s t ∧
      SameOutside s t ∧ t.phase = s.phase ∧ t.session = s.session ∧ t.srcRace = s.srcRace ∧ t.dstRace = s.dstRace) ∧
  (∀ s : State, s.busy = true →
    exec .clear s = .next { s with regs := { s.regs with status := s.regs.status ||| 0x08 } })

/-- R181: while BUSY = 1 each command other than NOP has no effect but to set CMD_DROPPED; no command ends the encode. -/
def Obligations.BusyDropsCommands : Prop :=
  ∀ (s : State) (i : Instr), s.busy = true → i = .encode ∨ i = .encodeSimple ∨ i = .clear →
    exec i s = .next { s with regs := { s.regs with status := s.regs.status ||| 0x08 } }

/-- R182: an illegal command word sets BAD_CMD in every phase and changes nothing else, and BAD_CMD then stays 1 over every step but a CLEAR or
the reset input. -/
def Obligations.BadCmdIsSticky : Prop :=
  (∀ (s : State) (w : Word), 3 < w.toNat →
    exec (.wr 0x08 w) s = .next { s with regs := { s.regs with status := s.regs.status ||| 0x10 } }) ∧
  (∀ s t : State, step s = .next t → s.badCmd = true →
    t.badCmd = true ∨ (∃ rest, s.inputs = .reset :: rest) ∨
    (∃ a rest, s.inputs = .bus a :: rest ∧ decode a = .instr .clear ∧ s.busy = false))

/-- R480: the interrupt output is a level, CTRL.IRQ_EN and (DONE or ERR); it asserts in the transition that ends an encode if it is enabled and
when the host enables it over DONE or ERR, and deasserts at CLEAR, at acceptance, when the host disables it and at reset. -/
def Obligations.InterruptIsALevel : Prop :=
  (∀ s : State, s.irq = (s.regs.ctrl.getLsbD 0 && (s.regs.status.getLsbD 1 || s.regs.status.getLsbD 2))) ∧
  (∀ s t : State, stepBlock s = .next t → s.phase ≠ .idle → t.phase = .idle → t.irq = s.irqEn) ∧
  (∀ (s : State) (d : Word), ∃ t, exec (.wr 0x04 d) s = .next t ∧ t.irq = (d.getLsbD 0 && (s.done || s.err))) ∧
  (∀ (s : State) (i : Instr), s.busy = false → i = .encode ∨ i = .encodeSimple ∨ i = .clear → ∃ t, exec i s = .next t ∧ t.irq = false) ∧
  (∀ (s : State) (rest : List Input), s.inputs = .reset :: rest → ∃ t, step s = .next t ∧ t.irq = false)

/-! The sequencer, errors and termination. -/

/-- R466: CHECK reports the first condition that holds, dimensions before format before buffer size, on exact integers. -/
def Obligations.CheckOrder : Prop :=
  ∀ s : State, s.phase = .check → s.inputs = [] →
    let c := s.session.cfg
    if c.width ≤ 0 ∨ c.height ≤ 0 ∨ 16383 < c.width ∨ 16383 < c.height then ∃ t, step s = .next t ∧ Errored 1 s t
    else if c.format ≠ 0 then ∃ t, step s = .next t ∧ Errored 3 s t
    else if (c.stride.toNat : Int) < 4 * c.width ∨ (c.srcLen.toNat : Int) < (c.stride.toNat : Int) * c.height then
      ∃ t, step s = .next t ∧ Errored 2 s t
    else (∃ r, step s = .refused r) ∨ step s = .next { s with phase := .convert }

/-- R100, R109, R113, with the model's choice of when they are looked at (log 7, log 8): once CHECK has found a configuration legal, it is refused
exactly when a byte of the source or the destination region lies in the register window, the 4096 bytes from REG_BASE, or a byte of the source
region lies in device memory; otherwise CONVERT is next. -/
def Obligations.UnsupportedBuffersRefused : Prop :=
  (∀ (p : Platform) (a : Word), inRegisterWindow p a = true ↔ (a - p.regBase).toNat < 4096) ∧
  ∀ s : State, s.phase = .check → s.inputs = [] → checkConfig s.session.cfg = none →
    let inWindow (a : Word) : Prop := (a - s.platform.regBase).toNat < 4096
    ((∃ a ∈ sourceRegion s.session.cfg, inWindow a ∨ regionKind s.platform a = .device) ∨ (∃ a ∈ destRegion s.session.cfg, inWindow a) →
      ∃ r, step s = .refused r) ∧
    ((∀ a ∈ sourceRegion s.session.cfg, ¬inWindow a ∧ regionKind s.platform a ≠ .device) → (∀ a ∈ destRegion s.session.cfg, ¬inWindow a) →
      step s = .next { s with phase := .convert })

/-- R470: a transition of the block that ends an encode without DONE is error entry with one of the codes 1 to 5; everything the host can see of
it. The result registers stay as acceptance set them. -/
def Obligations.ErrorEntry : Prop :=
  ∀ s t : State, stepBlock s = .next t → s.phase ≠ .idle → t.phase = .idle → t.done = false →
    ∃ code, code ∈ [(1 : Word), 2, 3, 4, 5] ∧ Errored code s t

/-- The spec's own inference in R471 ("an encode that ends in error entry has written no destination byte"): a run of the block, from an accepted
encode on and with the host only polling, that ends with ERR set has changed no byte of host memory. -/
def Obligations.NoOutputOnError : Prop :=
  ∀ (n : Nat) (s t : State), MachineInv s → s.phase = .check →
    (∀ x ∈ s.inputs, x = .block ∨ ∃ o, x = .bus (.read o 4)) →
    Host.Core.run core n s = .next t → t.err = true → t.mem = s.mem

/-- R465: in WRITE a file longer than the capacity ends the encode with code 4 before any byte is written; a file that fits never does. -/
def Obligations.OverflowComesBeforeTheWrite : Prop :=
  ∀ (s : State) (best : PassResult), s.phase = .write → s.inputs = [] → s.session.best = some best →
    (s.session.cfg.dstCap.toNat < best.size → ∃ t, step s = .next t ∧ Errored 4 s t) ∧
    (best.size ≤ s.session.cfg.dstCap.toNat → ∀ t, step s = .next t → t.err = s.err ∧ t.regs.errCode = s.regs.errCode)

/-- R464: a pass whose first partition has 2^19 bytes or more, or whose RIFF size passes 32 bits, ends the encode at once with code 5, an earlier
pass's result notwithstanding. R192, R405, R409: any other pass raises nothing, hands its result to the rate controller, and leaves the phase at
PASS exactly when that asks for another pass, at WRITE when it stops. -/
def Obligations.PayloadTooLargeEndsTheEncode : Prop :=
  ∀ s : State, s.phase = .pass → s.inputs = [] →
    let p := runPass s.session
    let l := p.payload.length
    ∃ t, step s = .next t ∧
      if 2 ^ 19 ≤ p.e1.out.length ∨ 0xFFFFFFFF < 12 + l + l % 2 then Errored 5 s t
      else
        t.session = (rateStep p p.result).1 ∧
        ((t.phase = .pass ∧ ∃ q', (rateStep p p.result).2 = .again q') ∨ (t.phase = .write ∧ (rateStep p p.result).2 = .stop)) ∧
        t.regs = s.regs ∧ SameOutside s t ∧ t.srcRace = s.srcRace ∧ t.dstRace = s.dstRace

/-- R440, and R521 with the model's record of raced addresses (log 11): a file that fits, where the platform admits every access, completes the
encode, with each byte i that falls in ordinary memory written at `dst_addr + i` mod 2^32 and no byte outside the file's addresses changed; where
the host stored to a byte while the block was in WRITE, that byte ends as the file's or as the host left it. Of a byte sent to a device nothing
more is said (log 8). A file that does not fit ends the encode with code 4 and writes nothing. -/
def Obligations.WriteStoresTheFile : Prop :=
  ∀ (s : State) (best : PassResult), s.phase = .write → s.inputs = [] → s.session.best = some best → best.size = best.file.length →
    s.mem.wf = true →
    (best.size ≤ s.session.cfg.dstCap.toNat →
      (∀ i < best.size, regionKind s.platform (addrPlus s.session.cfg.dstAddr i) ≠ .absent) →
      ∃ t, step s = .next t ∧
        (∀ i < best.size, regionKind s.platform (addrPlus s.session.cfg.dstAddr i) = .ram →
          let a := (addrPlus s.session.cfg.dstAddr i).toNat
          (a ∉ s.dstRace → readByte t.mem a = best.file.getD i 0) ∧
          (readByte t.mem a = best.file.getD i 0 ∨ readByte t.mem a = readByte s.mem a)) ∧
        (∀ a, (∀ i < best.size, a ≠ (addrPlus s.session.cfg.dstAddr i).toNat) → readByte t.mem a = readByte s.mem a) ∧
        t.regs.outLen.toNat = best.size ∧ t.regs.payloadLen = BitVec.ofNat 32 best.payloadLen ∧ t.regs.qUsed.toNat = best.q.val ∧
        t.regs.passes = BitVec.ofNat 32 s.session.k ∧ t.busy = false ∧ t.done = true ∧ t.err = s.err ∧ t.cmdDropped = s.cmdDropped ∧
        t.badCmd = s.badCmd ∧ t.regs.errCode = s.regs.errCode ∧ t.phase = .idle ∧ t.irq = s.irqEn ∧ SameConfigRegs s.regs t.regs ∧
        SameReservedStatus s t ∧ t.inputs = s.inputs ∧ t.platform = s.platform ∧ t.busData = s.busData ∧ t.hostByte = s.hostByte ∧
        t.hostCache = s.hostCache) ∧
    (s.session.cfg.dstCap.toNat < best.size → ∃ t, step s = .next t ∧ Errored 4 s t)

/-- R101, R114: no transition of the block outside WRITE, no instruction and no reset changes host memory, and WRITE changes only bytes of the
destination region. -/
def Obligations.OnlyWriteTouchesMemory : Prop :=
  (∀ s t : State, stepBlock s = .next t → s.phase ≠ .write → t.mem = s.mem) ∧
  (∀ (i : Instr) (s t : State), exec i s = .next t → t.mem = s.mem) ∧
  (∀ (s t : State) (rest : List Input), s.inputs = .reset :: rest → step s = .next t → t.mem = s.mem) ∧
  (∀ (s t : State) (best : PassResult), stepBlock s = .next t → s.phase = .write → s.session.best = some best →
    best.size = best.file.length →
    ∀ a, (∀ x ∈ destRegion s.session.cfg, a ≠ x.toNat) → readByte t.mem a = readByte s.mem a)

/-- R110, no step being the model's step that changes nothing (log 8): a CONVERT or a WRITE with an access the platform does not admit has no
step: however long the block is left to run it stays in its phase with BUSY = 1. -/
def Obligations.StuckForEver : Prop :=
  ∀ (s : State) (n : Nat), RegsInv s → s.inputs = [] →
    (s.phase = .convert ∧ (∃ a ∈ sourceRegion s.session.cfg, regionKind s.platform a = .absent)) ∨
      (s.phase = .write ∧ ∃ best, s.session.best = some best ∧ best.size ≤ s.session.cfg.dstCap.toNat ∧
        (∃ i < best.size, regionKind s.platform (addrPlus s.session.cfg.dstAddr i) = .absent)) →
    Host.Core.run core n s = .next s ∧ s.busy = true

/-- R195, for a host that stays silent: from acceptance on, with both buffers in ordinary memory away from the register window and the host
silent, at most 1 + 1 + 8 + 1 transitions bring the block to completion or error entry. -/
def Obligations.EncodeTerminates : Prop :=
  ∀ s : State, MachineInv s → s.phase = .check → s.inputs = [] → Supported s.platform s.session.cfg →
    ∃ n t, n ≤ 11 ∧ Host.Core.run core n s = .next t ∧ Settled t

/-- The spec's own inference in R196 ("The file an encode writes is a function of cfg and of the source bytes alone"): two encodes of one
configuration over the same source bytes, with no racing store and both hosts silent, whatever else differs between their machines, end alike: the
same flags, error code and result registers, and on DONE the same file at the destination. For a destination byte in device memory the last clause
rests on the model's choice that such a byte stands in State.mem (log 8). -/
def Obligations.EncodeIsDeterministic : Prop :=
  ∀ (n₁ n₂ : Nat) (s₁ s₂ t₁ t₂ : State), MachineInv s₁ → MachineInv s₂ → s₁.mem.wf = true → s₂.mem.wf = true →
    s₁.phase = .check → s₂.phase = .check → s₁.inputs = [] → s₂.inputs = [] → RaceFree s₁ → RaceFree s₂ →
    s₁.session.cfg = s₂.session.cfg →
    (∀ a ∈ sourceRegion s₁.session.cfg, readByte s₁.mem a.toNat = readByte s₂.mem a.toNat) →
    Host.Core.run core n₁ s₁ = .next t₁ → Host.Core.run core n₂ s₂ = .next t₂ → t₁.phase = .idle → t₂.phase = .idle →
    t₁.done = t₂.done ∧ t₁.err = t₂.err ∧ t₁.regs.errCode = t₂.regs.errCode ∧ t₁.regs.outLen = t₂.regs.outLen ∧
    t₁.regs.payloadLen = t₂.regs.payloadLen ∧ t₁.regs.qUsed = t₂.regs.qUsed ∧ t₁.regs.passes = t₂.regs.passes ∧
    (t₁.done = true → ∀ i < t₁.regs.outLen.toNat,
      readByte t₁.mem (addrPlus s₁.session.cfg.dstAddr i).toNat = readByte t₂.mem (addrPlus s₁.session.cfg.dstAddr i).toNat)

/-- R523: a register write, at any time, BUSY or not, is stored and reads back, leaves the encode's phase and internal state alone, and commutes
with the block's next transition; a CTRL write shows on the interrupt output at once. -/
def Obligations.RunningEncodeKeepsItsSnapshot : Prop :=
  ∀ (s : State) (o : Offset) (d : Word),
    o ∈ [(0x04 : Offset), 0x14, 0x18, 0x1C, 0x20, 0x24, 0x28, 0x2C, 0x30, 0x34, 0x38, 0x3C] →
    ∃ t, exec (.wr o d) s = .next t ∧ t.session = s.session ∧ t.phase = s.phase ∧ t.regs.status = s.regs.status ∧
      exec (.rd o) t = .next { t with busData := if o = 0x04 then d &&& 1 else d } ∧
      (o = 0x04 → t.irq = (d.getLsbD 0 && (s.done || s.err))) ∧
      (∀ u, stepBlock s = .next u → stepBlock t = exec (.wr o d) u)

/-! Invariants. -/

/-- Every step keeps host memory in its canonical form, the model's choice of how memory is held (log 2). -/
def Obligations.MemoryStaysCanonical : Prop := ∀ s t : State, s.mem.wf = true → step s = .next t → t.mem.wf = true

/-- Every step keeps the register file, the rate controller and the snapshot as the spec describes them. That at most one of BUSY, DONE, ERR is 1
is the spec's own inference in R46, and that the index lies in the search interval is its own inference in R409. -/
def Obligations.MachineInvIsKept : Prop := ∀ s t : State, MachineInv s → step s = .next t → MachineInv t

/-- The state after reset satisfies the invariants. -/
def Obligations.InvariantsHoldAtReset : Prop := State.reset.mem.wf = true ∧ MachineInv State.reset ∧ BestInv State.reset

/-- The spec's own inference in R410 ("byte-identical to what a single pass at best.q produces"): after every step, a result the rate controller
keeps is byte for byte what one pass at its index gives on the same source planes. -/
def Obligations.BestIsASinglePass : Prop := ∀ s t : State, BestInv s → step s = .next t → BestInv t

/-! The pipeline: colour transform and prediction. -/

/-- R223's formula, with the corner case the spec marks as its own inference ("for every input the unclipped value is in 16..235"): the clip never
changes the luma value; white gives 235 and black 16. -/
def Obligations.LumaIsInRange : Prop :=
  (∀ p : Rgb,
    let v : Int := (16839 * p.r.toNat + 33059 * p.g.toNat + 6420 * p.b.toNat + 32768 + 16 * 2 ^ 16) / 2 ^ 16
    ((yConv p).toNat : Int) = v ∧ 16 ≤ v ∧ v ≤ 235) ∧
  (yConv { r := 255, g := 255, b := 255 }).toNat = 235 ∧ (yConv { r := 0, g := 0, b := 0 }).toNat = 16

/-- R224's formulas, with the corner case the spec marks as its own inference ("the unclipped value lies in 16..240"): the clip never changes the
chroma values of a 2x2 group; four equal grey samples give 128 and four red ones 90 and 240. -/
def Obligations.ChromaIsInRange : Prop :=
  (∀ a b c d : Rgb,
    let r : Int := a.r.toNat + b.r.toNat + c.r.toNat + d.r.toNat
    let g : Int := a.g.toNat + b.g.toNat + c.g.toNat + d.g.toNat
    let bl : Int := a.b.toNat + b.b.toNat + c.b.toNat + d.b.toNat
    let u : Int := (-9719 * r - 19081 * g + 28800 * bl + 2 ^ 17 + 128 * 2 ^ 18) / 2 ^ 18
    let v : Int := (28800 * r - 24116 * g - 4684 * bl + 2 ^ 17 + 128 * 2 ^ 18) / 2 ^ 18
    ((uConv4 [a, b, c, d]).toNat : Int) = u ∧ 16 ≤ u ∧ u ≤ 240 ∧ ((vConv4 [a, b, c, d]).toNat : Int) = v ∧ 16 ≤ v ∧ v ≤ 240) ∧
  (∀ x : Byte,
    uConv4 (List.replicate 4 { r := x, g := x, b := x }) = 128 ∧ vConv4 (List.replicate 4 { r := x, g := x, b := x }) = 128) ∧
  (uConv4 (List.replicate 4 { r := 255, g := 0, b := 0 }) = 90 ∧ vConv4 (List.replicate 4 { r := 255, g := 0, b := 0 }) = 240)

/-- R61, R221, R222, R225, R226, R404: a CONVERT over ordinary memory, with no racing store, leaves the padded planes, of R61's sizes, every
sample computed from the bytes of memory at the replicated position, and the rate controller's start, and leaves everything outside the block as
it was. -/
def Obligations.ConvertBuildsThePlanes : Prop :=
  ∀ s : State, s.phase = .convert → s.inputs = [] → s.srcRace = [] → checkConfig s.session.cfg = none →
    (∀ a ∈ sourceRegion s.session.cfg, regionKind s.platform a = .ram) →
    let c := s.session.cfg
    let at' (x y j : Nat) : Byte :=
      readByte s.mem (addrPlus c.srcAddr (min y (c.h - 1) * c.stride.toNat + 4 * min x (c.w - 1) + j)).toNat
    let pixel (x y : Nat) : Rgb := { r := at' x y 0, g := at' x y 1, b := at' x y 2 }
    let group (x y : Nat) : List Rgb := [pixel (2 * x) (2 * y), pixel (2 * x + 1) (2 * y), pixel (2 * x) (2 * y + 1), pixel (2 * x + 1) (2 * y + 1)]
    (c.w = c.width.toNat ∧ c.h = c.height.toNat ∧ c.pw = 16 * ((c.w + 15) / 16) ∧ c.ph = 16 * ((c.h + 15) / 16) ∧ c.cw = (c.w + 1) / 2 ∧
      c.ch = (c.h + 1) / 2) ∧
    ∃ t, step s = .next t ∧ t.phase = .pass ∧ t.regs = s.regs ∧ t.mem = s.mem ∧
      Sized t.session.ySrc c.ph c.pw ∧ Sized t.session.uSrc (c.ph / 2) (c.pw / 2) ∧ Sized t.session.vSrc (c.ph / 2) (c.pw / 2) ∧
      (∀ y < c.ph, ∀ x < c.pw, planeAt t.session.ySrc y x = yConv (pixel x y)) ∧
      (∀ y < c.ph / 2, ∀ x < c.pw / 2,
        planeAt t.session.uSrc y x = uConv4 (group (min x (c.cw - 1)) (min y (c.ch - 1))) ∧
        planeAt t.session.vSrc y x = vConv4 (group (min x (c.cw - 1)) (min y (c.ch - 1)))) ∧
      t.session.cfg = c ∧ t.session.k = 0 ∧ t.session.best = none ∧ t.session.q = qualityIndex c.quality ∧ t.session.lo = 0 ∧
      t.session.hi = 127 ∧ t.session.mode = (if c.target = 0 then .default else .target) ∧ t.platform = s.platform ∧ t.inputs = s.inputs ∧
      t.busData = s.busData ∧ t.hostByte = s.hostByte ∧ t.hostCache = s.hostCache ∧ t.srcRace = s.srcRace ∧ t.dstRace = s.dstRace

/-- R229: two machines whose memories agree on the R, G and B bytes of every pixel convert to the same planes, whatever their alpha bytes. -/
def Obligations.AlphaIsDiscarded : Prop :=
  ∀ (s t : State) (ses : Session), s.srcRace = [] → t.srcRace = [] →
    (∀ y < ses.cfg.h, ∀ x < ses.cfg.w, ∀ j < 3,
      readByte s.mem (sourceAddr ses.cfg x y j).toNat = readByte t.mem (sourceAddr ses.cfg x y j).toNat) →
    convertPlanes s ses = convertPlanes t ses

/-- R256, R259: the 16x16 luma predictors and the 8x8 chroma predictor, sample by sample, from the edges of R255, with the corner cases the spec
marks as its own inference ("at (0, 0) DC_PRED gives 128" and what follows there): the values at (0, 0), TM_PRED equal to H_PRED on the top row
and to V_PRED on the left column. -/
def Obligations.LumaPredictors : Prop :=
  (∀ (rec : Plane) (r c y x : Nat), y < 16 → x < 16 →
    let e := edgesAt rec 16 r c
    let a (i : Nat) : Nat := if 0 < r then (planeAt rec (16 * r - 1) (16 * c + i)).toNat else 127
    let l (j : Nat) : Nat := if 0 < c then (planeAt rec (16 * r + j) (16 * c - 1)).toNat else 129
    let p : Nat := if 0 < r ∧ 0 < c then (planeAt rec (16 * r - 1) (16 * c - 1)).toNat else if r = 0 then 127 else 129
    let sum (f : Nat → Nat) : Nat := ((List.range 16).map f).sum
    (planeAt (predictLuma .dcPred e) y x).toNat =
      (if 0 < r ∧ 0 < c then (sum a + sum l + 16) / 32 else if 0 < r then (sum a + 8) / 16 else if 0 < c then (sum l + 8) / 16 else 128) ∧
    (planeAt (predictLuma .vPred e) y x).toNat = a x ∧
    (planeAt (predictLuma .hPred e) y x).toNat = l y ∧
    ((planeAt (predictLuma .tmPred e) y x).toNat : Int) = max 0 (min 255 ((l y : Int) + a x - p))) ∧
  (∀ (rec : Plane) (r c y x : Nat), y < 8 → x < 8 →
    let a (i : Nat) : Nat := (planeAt rec (8 * r - 1) (8 * c + i)).toNat
    let l (j : Nat) : Nat := (planeAt rec (8 * r + j) (8 * c - 1)).toNat
    let sum (f : Nat → Nat) : Nat := ((List.range 8).map f).sum
    (planeAt (predictChroma (edgesAt rec 8 r c)) y x).toNat =
      (if 0 < r ∧ 0 < c then (sum a + sum l + 8) / 16 else if 0 < r then (sum a + 4) / 8 else if 0 < c then (sum l + 4) / 8 else 128)) ∧
  (∀ (rec : Plane) (c : Nat), predictLuma .tmPred (edgesAt rec 16 0 c) = predictLuma .hPred (edgesAt rec 16 0 c)) ∧
  (∀ (rec : Plane) (r : Nat), 0 < r → predictLuma .tmPred (edgesAt rec 16 r 0) = predictLuma .vPred (edgesAt rec 16 r 0)) ∧
  (∀ (rec : Plane) (y x : Nat), y < 16 → x < 16 →
    planeAt (predictLuma .dcPred (edgesAt rec 16 0 0)) y x = 128 ∧ planeAt (predictLuma .vPred (edgesAt rec 16 0 0)) y x = 127 ∧
    planeAt (predictLuma .hPred (edgesAt rec 16 0 0)) y x = 129 ∧ planeAt (predictLuma .tmPred (edgesAt rec 16 0 0)) y x = 129)

/-- R257, with the candidates of R253 written out: the selected luma mode is a candidate of the method, no candidate costs less, and among those
that cost as little its index is lowest; the cost is the sum of absolute differences over the 256 samples. -/
def Obligations.SelectionIsTheCheapestMode : Prop :=
  candidates 0 = [.dcPred] ∧
  (∀ method, 1 ≤ method → method ≤ 3 → candidates method = [.dcPred, .vPred, .hPred]) ∧
  (∀ method, 4 ≤ method → method ≤ 6 → candidates method = [.dcPred, .vPred, .hPred, .tmPred]) ∧
  (modeIndex .dcPred = 0 ∧ modeIndex .vPred = 1 ∧ modeIndex .hPred = 2 ∧ modeIndex .tmPred = 3) ∧
  ∀ (method : Nat) (src : Plane) (e : Edges),
    let cost (m : LumaMode) : Nat :=
      ((List.range 16).map fun y => ((List.range 16).map fun x =>
        (((planeAt src y x).toNat : Int) - (planeAt (predictLuma m e) y x).toNat).natAbs).sum).sum
    let m := selectLuma method src e
    m ∈ candidates method ∧
    ∀ m' ∈ candidates method, cost m ≤ cost m' ∧ (cost m' = cost m → modeIndex m ≤ modeIndex m')

/-! The pipeline: transforms and quantization. -/

/-- R293, R294: the forward DCT and the forward WHT are the rules' two passes, with floor division for the shifts (R293's pseudocode, which its
corner case of an all-zero block contradicts: log 24); and the ranges the spec marks as its own inference in R336 ("DCT coefficients satisfy |c|
<= 2040", "WHT coefficients satisfy |w| <= 16320"): on residuals in -255..255 the DCT stays within 2040, and on inputs within 2040 the WHT stays
within 16320. -/
def Obligations.ForwardTransformRanges : Prop :=
  (∀ d : List Int,
    let x (i j : Nat) : Int := coefAt d (4 * i + j)
    let t0 (i : Nat) : Int := (x i 0 + x i 3 + (x i 1 + x i 2)) * 8
    let t1 (i : Nat) : Int := ((x i 1 - x i 2) * 2217 + (x i 0 - x i 3) * 5352 + 1812) / 2 ^ 9
    let t2 (i : Nat) : Int := (x i 0 + x i 3 - (x i 1 + x i 2)) * 8
    let t3 (i : Nat) : Int := ((x i 0 - x i 3) * 2217 - (x i 1 - x i 2) * 5352 + 937) / 2 ^ 9
    ∀ col ∈ [((0 : Nat), t0), (1, t1), (2, t2), (3, t3)],
      let i := col.1
      let t := col.2
      let a0 := t 0 + t 3
      let a1 := t 1 + t 2
      let a2 := t 1 - t 2
      let a3 := t 0 - t 3
      coefAt (fdct d) i = (a0 + a1 + 7) / 2 ^ 4 ∧
      coefAt (fdct d) (4 + i) = (a2 * 2217 + a3 * 5352 + 12000) / 2 ^ 16 + (if a3 ≠ 0 then 1 else 0) ∧
      coefAt (fdct d) (8 + i) = (a0 - a1 + 7) / 2 ^ 4 ∧
      coefAt (fdct d) (12 + i) = (a3 * 2217 - a2 * 5352 + 51000) / 2 ^ 16) ∧
  (∀ e : List Int,
    let x (i j : Nat) : Int := coefAt e (4 * i + j)
    let t0 (i : Nat) : Int := x i 0 + x i 2 + (x i 1 + x i 3)
    let t1 (i : Nat) : Int := x i 0 - x i 2 + (x i 1 - x i 3)
    let t2 (i : Nat) : Int := x i 0 - x i 2 - (x i 1 - x i 3)
    let t3 (i : Nat) : Int := x i 0 + x i 2 - (x i 1 + x i 3)
    ∀ col ∈ [((0 : Nat), t0), (1, t1), (2, t2), (3, t3)],
      let i := col.1
      let t := col.2
      coefAt (fwht e) i = (t 0 + t 2 + (t 1 + t 3)) / 2 ∧
      coefAt (fwht e) (4 + i) = (t 0 - t 2 + (t 1 - t 3)) / 2 ∧
      coefAt (fwht e) (8 + i) = (t 0 - t 2 - (t 1 - t 3)) / 2 ∧
      coefAt (fwht e) (12 + i) = (t 0 + t 2 - (t 1 + t 3)) / 2) ∧
  (∀ d : List Int, (∀ i < 16, -255 ≤ coefAt d i ∧ coefAt d i ≤ 255) → ∀ k < 16, (coefAt (fdct d) k).natAbs ≤ 2040) ∧
  (∀ e : List Int, (∀ i < 16, (coefAt e i).natAbs ≤ 2040) → ∀ k < 16, (coefAt (fwht e) k).natAbs ≤ 16320)

/-- The spec's own inference in R336 ("the cap of rule R322 never acts"): whatever the samples and the index, no level of a macroblock exceeds
2040, and the cap of R322 never acts on its coefficients. -/
def Obligations.LevelsAreNeverCapped : Prop :=
  ∀ (q : QIndex) (src pred srcC predC : Plane),
    let coefs := forwardBlocks 4 src pred
    let chroma := forwardBlocks 2 srcC predC
    (∀ b < 16, ∀ k < 16, (coefAt ((lumaLevels q coefs).getD b []) k).natAbs ≤ 2040) ∧
    (∀ k < 16, (coefAt (y2Levels q coefs) k).natAbs ≤ 2040) ∧
    (∀ b < 4, ∀ k < 16, (coefAt ((chromaLevels q chroma).getD b []) k).natAbs ≤ 2040) ∧
    (∀ b < 16, ∀ k < 16, ((coefAt (coefs.getD b []) k).natAbs + y1ac q / 2) / y1ac q < 2047) ∧
    (∀ s, s = y2dc q ∨ s = y2ac q → ∀ k < 16, ((coefAt (fwht (coefs.map fun c => coefAt c 0)) k).natAbs + s / 2) / s < 2047) ∧
    (∀ s, s = uvdc q ∨ s = uvac q → ∀ b < 4, ∀ k < 16, ((coefAt (chroma.getD b []) k).natAbs + s / 2) / s < 2047)

/-- R322: quantization is the rule's formula; where the cap does not act it rounds to nearest, halves away from zero, and 0 gives 0. -/
def Obligations.QuantRoundsToNearest : Prop :=
  (∀ (x : Int) (s : Nat), 4 ≤ s →
    quant x s = (if x < 0 then -1 else 1) * ((min 2047 ((x.natAbs + s / 2) / s) : Nat) : Int)) ∧
  (∀ (x : Int) (s : Nat), 4 ≤ s → (x.natAbs + s / 2) / s ≤ 2047 →
    2 * (x - quant x s * s).natAbs ≤ s ∧ (2 * (x - quant x s * s).natAbs = s → (quant x s).natAbs * s > x.natAbs)) ∧
  (∀ s : Nat, 4 ≤ s → quant 0 s = 0)

/-- R295, R296: the inverse DCT and the inverse WHT are the rules' two passes, with floor division for the shifts; and the corner cases the spec
marks as its own inference there: a block with only its first coefficient nonzero inverts to one value everywhere. -/
def Obligations.InverseOfDcOnly : Prop :=
  (∀ x : List Int,
    let m1 (v : Int) : Int := v + v * 20091 / 2 ^ 16
    let m2 (v : Int) : Int := v * 35468 / 2 ^ 16
    let c1 (a b : Int) : Int := m2 a - m1 b
    let d1 (a b : Int) : Int := m1 a + m2 b
    let y (i j : Nat) : Int := coefAt x (4 * i + j)
    let t0 (i : Nat) : Int := y 0 i + y 2 i + d1 (y 1 i) (y 3 i)
    let t1 (i : Nat) : Int := y 0 i - y 2 i + c1 (y 1 i) (y 3 i)
    let t2 (i : Nat) : Int := y 0 i - y 2 i - c1 (y 1 i) (y 3 i)
    let t3 (i : Nat) : Int := y 0 i + y 2 i - d1 (y 1 i) (y 3 i)
    ∀ row ∈ [((0 : Nat), t0), (1, t1), (2, t2), (3, t3)],
      let j := row.1
      let u := row.2
      coefAt (idct x) (4 * j) = (u 0 + u 2 + d1 (u 1) (u 3) + 4) / 8 ∧
      coefAt (idct x) (4 * j + 1) = (u 0 - u 2 + c1 (u 1) (u 3) + 4) / 8 ∧
      coefAt (idct x) (4 * j + 2) = (u 0 - u 2 - c1 (u 1) (u 3) + 4) / 8 ∧
      coefAt (idct x) (4 * j + 3) = (u 0 + u 2 - d1 (u 1) (u 3) + 4) / 8) ∧
  (∀ x : List Int,
    let y (i j : Nat) : Int := coefAt x (4 * i + j)
    let t0 (i : Nat) : Int := y 0 i + y 3 i + (y 1 i + y 2 i)
    let t1 (i : Nat) : Int := y 1 i - y 2 i + (y 0 i - y 3 i)
    let t2 (i : Nat) : Int := y 0 i + y 3 i - (y 1 i + y 2 i)
    let t3 (i : Nat) : Int := y 0 i - y 3 i - (y 1 i - y 2 i)
    ∀ row ∈ [((0 : Nat), t0), (1, t1), (2, t2), (3, t3)],
      let j := row.1
      let u := row.2
      coefAt (iwht x) (4 * j) = (u 0 + u 3 + (u 1 + u 2) + 3) / 8 ∧
      coefAt (iwht x) (4 * j + 1) = (u 1 - u 2 + (u 0 - u 3) + 3) / 8 ∧
      coefAt (iwht x) (4 * j + 2) = (u 0 + u 3 - (u 1 + u 2) + 3) / 8 ∧
      coefAt (iwht x) (4 * j + 3) = (u 0 - u 3 - (u 1 - u 2) + 3) / 8) ∧
  ∀ v : Int, ∀ k < 16,
    coefAt (idct (v :: List.replicate 15 0)) k = (v + 4) / 8 ∧ coefAt (iwht (v :: List.replicate 15 0)) k = (v + 3) / 8

/-- R320, R321: the five steps are the rule's values over its two tables; and, the spec's own inferences in R320 and R335, the tables are
non-decreasing, dc_q is at most ac_q, and every step is non-decreasing in the index. -/
def Obligations.StepsAreMonotone : Prop :=
  let dc : List Nat :=
    [4, 5, 6, 7, 8, 9, 10, 10, 11, 12, 13, 14, 15, 16, 17, 17,
     18, 19, 20, 20, 21, 21, 22, 22, 23, 23, 24, 25, 25, 26, 27, 28,
     29, 30, 31, 32, 33, 34, 35, 36, 37, 37, 38, 39, 40, 41, 42, 43,
     44, 45, 46, 46, 47, 48, 49, 50, 51, 52, 53, 54, 55, 56, 57, 58] ++
    [59, 60, 61, 62, 63, 64, 65, 66, 67, 68, 69, 70, 71, 72, 73, 74,
     75, 76, 76, 77, 78, 79, 80, 81, 82, 83, 84, 85, 86, 87, 88, 89,
     91, 93, 95, 96, 98, 100, 101, 102, 104, 106, 108, 110, 112, 114, 116, 118,
     122, 124, 126, 128, 130, 132, 134, 136, 138, 140, 143, 145, 148, 151, 154, 157]
  let ac : List Nat :=
    [4, 5, 6, 7, 8, 9, 10, 11, 12, 13, 14, 15, 16, 17, 18, 19,
     20, 21, 22, 23, 24, 25, 26, 27, 28, 29, 30, 31, 32, 33, 34, 35,
     36, 37, 38, 39, 40, 41, 42, 43, 44, 45, 46, 47, 48, 49, 50, 51,
     52, 53, 54, 55, 56, 57, 58, 60, 62, 64, 66, 68, 70, 72, 74, 76] ++
    [78, 80, 82, 84, 86, 88, 90, 92, 94, 96, 98, 100, 102, 104, 106, 108,
     110, 112, 114, 116, 119, 122, 125, 128, 131, 134, 137, 140, 143, 146, 149, 152,
     155, 158, 161, 164, 167, 170, 173, 177, 181, 185, 189, 193, 197, 201, 205, 209,
     213, 217, 221, 225, 229, 234, 239, 245, 249, 254, 259, 264, 269, 274, 279, 284]
  (∀ q : QIndex,
    y1ac q = ac.getD q.val 0 ∧ y2dc q = 2 * dc.getD q.val 0 ∧ y2ac q = max 8 (ac.getD q.val 0 * 155 / 100) ∧
    uvdc q = min 132 (dc.getD q.val 0) ∧ uvac q = ac.getD q.val 0 ∧ dc.getD q.val 0 ≤ ac.getD q.val 0) ∧
  ∀ q q' : QIndex, q ≤ q' →
    dc.getD q.val 0 ≤ dc.getD q'.val 0 ∧ ac.getD q.val 0 ≤ ac.getD q'.val 0 ∧
    y1ac q ≤ y1ac q' ∧ y2dc q ≤ y2dc q' ∧ y2ac q ≤ y2ac q' ∧ uvdc q ≤ uvdc q' ∧ uvac q ≤ uvac q'

/-- R258, R330 to R332, R323, R333, R334: analysing macroblock (r, c) leaves a record of the selected luma mode, DC_PRED for chroma, the index,
and the levels, the quantized forward transforms of source minus prediction; and it replaces exactly the macroblock's samples in the three
reconstruction planes, each by prediction plus inverse transform of the dequantized levels, a luma block's DC being the inverse WHT's, clipped,
and leaves every other sample. R192, R250, R390: a pass analyses the source planes' macroblocks so at (r, c) in raster order, each on the planes
the earlier ones left, from planes of the padded size (whose samples at the start are the model's: log 16), codes the records, and changes nothing
else of the session. -/
def Obligations.AnalysisWritesOneMacroblock : Prop :=
  (∀ (method : Nat) (q : QIndex) (src : SourcePlanes) (rec : Recon) (mbw mbh r c : Nat), r < mbh → c < mbw →
    Sized rec.y (16 * mbh) (16 * mbw) → Sized rec.u (8 * mbh) (8 * mbw) → Sized rec.v (8 * mbh) (8 * mbw) →
    let out := analyseMb method q src rec r c
    let m := out.2
    let predY := predictLuma m.ymode (edgesAt rec.y 16 r c)
    let predU := predictChroma (edgesAt rec.u 8 r c)
    let predV := predictChroma (edgesAt rec.v 8 r c)
    let diff (p pred : Plane) (sz n b : Nat) : List Int := (List.range 16).map fun k =>
      ((planeAt p (sz * r + 4 * (b / n) + k / 4) (sz * c + 4 * (b % n) + k % 4)).toNat : Int) -
        (planeAt pred (4 * (b / n) + k / 4) (4 * (b % n) + k % 4)).toNat
    let y2d : List Int := (List.range 16).map fun k => coefAt m.y2 k * (if k = 0 then y2dc q else y2ac q)
    let yd (b : Nat) : List Int := (List.range 16).map fun k => if k = 0 then coefAt (iwht y2d) b else coefAt (m.y.getD b []) k * y1ac q
    let xd (x : List (List Int)) (b : Nat) : List Int := (List.range 16).map fun k => coefAt (x.getD b []) k * (if k = 0 then uvdc q else uvac q)
    let res (n : Nat) (block : Nat → List Int) (i j : Nat) : Int := coefAt (idct (block (n * (i / 4) + j / 4))) (4 * (i % 4) + j % 4)
    (m.ymode = selectLuma method (blockOf src.y 16 r c) (edgesAt rec.y 16 r c) ∧ m.uvmode = .dcPred ∧ m.q = q) ∧
    (m.y.length = 16 ∧ m.y2.length = 16 ∧ m.u.length = 4 ∧ m.v.length = 4 ∧ ∀ lv ∈ m.y ++ m.u ++ m.v, lv.length = 16) ∧
    (∀ b < 16, ∀ k < 16, coefAt (m.y.getD b []) k = if k = 0 then 0 else quant (coefAt (fdct (diff src.y predY 16 4 b)) k) (y1ac q)) ∧
    (∀ k < 16, coefAt m.y2 k =
      quant (coefAt (fwht ((List.range 16).map fun b => coefAt (fdct (diff src.y predY 16 4 b)) 0)) k) (if k = 0 then y2dc q else y2ac q)) ∧
    (∀ b < 4, ∀ k < 16,
      coefAt (m.u.getD b []) k = quant (coefAt (fdct (diff src.u predU 8 2 b)) k) (if k = 0 then uvdc q else uvac q) ∧
      coefAt (m.v.getD b []) k = quant (coefAt (fdct (diff src.v predV 8 2 b)) k) (if k = 0 then uvdc q else uvac q)) ∧
    Sized out.1.y (16 * mbh) (16 * mbw) ∧ Sized out.1.u (8 * mbh) (8 * mbw) ∧ Sized out.1.v (8 * mbh) (8 * mbw) ∧
    (∀ i < 16, ∀ j < 16, ((planeAt out.1.y (16 * r + i) (16 * c + j)).toNat : Int) =
      max 0 (min 255 ((planeAt predY i j).toNat + res 4 yd i j))) ∧
    (∀ i < 8, ∀ j < 8, ((planeAt out.1.u (8 * r + i) (8 * c + j)).toNat : Int) =
      max 0 (min 255 ((planeAt predU i j).toNat + res 2 (xd m.u) i j))) ∧
    (∀ i < 8, ∀ j < 8, ((planeAt out.1.v (8 * r + i) (8 * c + j)).toNat : Int) =
      max 0 (min 255 ((planeAt predV i j).toNat + res 2 (xd m.v) i j))) ∧
    (∀ y x, ¬(y / 16 = r ∧ x / 16 = c) → planeAt out.1.y y x = planeAt rec.y y x) ∧
    (∀ y x, ¬(y / 8 = r ∧ x / 8 = c) → planeAt out.1.u y x = planeAt rec.u y x ∧ planeAt out.1.v y x = planeAt rec.v y x)) ∧
  ∀ ses : Session,
    let mbw := (ses.cfg.width.toNat + 15) / 16
    let mbh := (ses.cfg.height.toNat + 15) / 16
    let order : List (Nat × Nat) := (List.range mbh).flatMap fun r => (List.range mbw).map fun c => (r, c)
    let start := Recon.start ses.cfg
    let frame : Recon × List MbRecord := order.foldl (fun done p =>
      let out := analyseMb ses.cfg.method ses.q { y := ses.ySrc, u := ses.uSrc, v := ses.vSrc } done.1 p.1 p.2
      (out.1, done.2 ++ [out.2])) (start, [])
    let coded := codeFrame mbw ses.q frame.2
    (Sized start.y (16 * mbh) (16 * mbw) ∧ Sized start.u (8 * mbh) (8 * mbw) ∧ Sized start.v (8 * mbh) (8 * mbw)) ∧
    runPass ses =
      { ses with
        yRec := frame.1.y, uRec := frame.1.u, vRec := frame.1.v, mbs := frame.2
        ctx := coded.ctx, counts := coded.counts, probs := coded.probs, e1 := coded.e1, e2 := coded.e2 }

/-! The entropy coder. -/

/-- The state R67 gives a bool encoder between writes, kept by every boolean whose probability is in 1..255; split lies strictly inside the
range. -/
def Obligations.PutKeepsTheCoderState : Prop :=
  ∀ (e : BoolEnc) (p : Nat) (bit : Bool), 128 ≤ e.range → e.range ≤ 255 → 1 ≤ e.bitCount → e.bitCount ≤ 24 → 1 ≤ p → p ≤ 255 →
    1 ≤ splitOf e.range p ∧ splitOf e.range p < e.range ∧
    128 ≤ (putBool e p bit).range ∧ (putBool e p bit).range ≤ 255 ∧ 1 ≤ (putBool e p bit).bitCount ∧ (putBool e p bit).bitCount ≤ 24 ∧
    e.out.length ≤ (putBool e p bit).out.length ∧ (flushBytes (putBool e p bit)).length = (putBool e p bit).out.length + 4

/-- The coder of R340 to R344, with its byte-wise carry, computes an exact interval: the flushed bytes, read as one number, are the lower end that
an encoder over one unbounded integer reaches, so no carry is ever lost. The exact encoder is this file's own; that no carry passes the first byte
is the spec's own statement in R342 ("the loop never runs past the first byte", log 13). -/
def Obligations.BoolCoderIsExact : Prop :=
  ∀ bs : List (Nat × Bool), (∀ b ∈ bs, 1 ≤ b.1 ∧ b.1 ≤ 255) →
    let e := putAll BoolEnc.init bs
    let x := ExactCoder.putAll ExactCoder.init bs
    e.range = x.range ∧ beValue (flushBytes e) = x.low * 2 ^ e.bitCount ∧ 8 * (flushBytes e).length = x.shifts + 8 + e.bitCount ∧
    x.low + x.range ≤ 255 * 2 ^ x.shifts

/-- R291, R350, R360, R361, R370: the block types have the numbers and first coded positions of the rule; a block's flag is 1 exactly when some
level at a scan position it codes is not 0, and with the flag 0 the walk is one EOB; the walk of a frame is, for each macroblock in raster order,
Y2, sixteen luma, four U and four V blocks, each in the context that is the sum of the flags of the blocks directly above and to the left in its
plane, 0 outside the frame; and the counts of a pass are the numbers of its walk's tree booleans, by node and bit. -/
def Obligations.WalkFlagsNonzeroBlocks : Prop :=
  (typeIndex .yAfterY2 = 0 ∧ typeIndex .y2 = 1 ∧ typeIndex .chroma = 2 ∧ typeIndex .yWithDc = 3) ∧
  (firstPosition .yAfterY2 = 1 ∧ firstPosition .y2 = 0 ∧ firstPosition .chroma = 0 ∧ firstPosition .yWithDc = 0) ∧
  (∀ (t : BlockType) (lv : List Int) (k : Fin 3),
    ((walkBlock t lv k).2 = true ↔ ∃ i, firstPosition t ≤ i ∧ i < 16 ∧ coefAt (zigzag lv) i ≠ 0) ∧
    ((walkBlock t lv k).2 = false → (walkBlock t lv k).1 = [.node t (bandAt (firstPosition t)) k 0 false])) ∧
  (∀ (mbw : Nat) (mbs : List MbRecord), 0 < mbw → (∀ m ∈ mbs, m.y.length = 16 ∧ m.u.length = 4 ∧ m.v.length = 4) →
    let y2 (i : Nat) : List Int := (mbs.map (·.y2)).getD i []
    let y (i b : Nat) : List Int := ((mbs.map (·.y)).getD i []).getD b []
    let u (i b : Nat) : List Int := ((mbs.map (·.u)).getD i []).getD b []
    let v (i b : Nat) : List Int := ((mbs.map (·.v)).getD i []).getD b []
    let nz (first : Nat) (lv : List Int) : Bool := (List.range 16).any fun i => decide (first ≤ i) && decide (coefAt (zigzag lv) i ≠ 0)
    let nzY2 (br bc : Nat) : Bool := nz 0 (y2 (br * mbw + bc))
    let nzY (br bc : Nat) : Bool := nz 1 (y (br / 4 * mbw + bc / 4) (4 * (br % 4) + bc % 4))
    let nzU (br bc : Nat) : Bool := nz 0 (u (br / 2 * mbw + bc / 2) (2 * (br % 2) + bc % 2))
    let nzV (br bc : Nat) : Bool := nz 0 (v (br / 2 * mbw + bc / 2) (2 * (br % 2) + bc % 2))
    let ctx0 (f : Nat → Nat → Bool) (br bc : Nat) : Fin 3 :=
      Fin.ofNat 3 ((if 0 < br then (f (br - 1) bc).toNat else 0) + (if 0 < bc then (f br (bc - 1)).toNat else 0))
    (walkFrame mbw mbs).1 = (List.range mbs.length).flatMap fun i =>
      let r := i / mbw
      let c := i % mbw
      (walkBlock .y2 (y2 i) (ctx0 nzY2 r c)).1 ++
      ((List.range 16).flatMap fun b => (walkBlock .yAfterY2 (y i b) (ctx0 nzY (4 * r + b / 4) (4 * c + b % 4))).1) ++
      ((List.range 4).flatMap fun b => (walkBlock .chroma (u i b) (ctx0 nzU (2 * r + b / 2) (2 * c + b % 2))).1) ++
      ((List.range 4).flatMap fun b => (walkBlock .chroma (v i b) (ctx0 nzV (2 * r + b / 2) (2 * c + b % 2))).1)) ∧
  (∀ (mbw : Nat) (q : QIndex) (mbs : List MbRecord) (t : BlockType) (b : Fin 8) (k : Fin 3) (n : Fin 11),
    let x := countAt (codeFrame mbw q mbs).counts (((typeIndex t * 8 + b.val) * 3 + k.val) * 11 + n.val)
    x.ones = (walkFrame mbw mbs).1.count (.node t b k n true) ∧ x.zeros = (walkFrame mbw mbs).1.count (.node t b k n false))

/-- R350 to R354: the booleans of a block with a nonzero level are, at each scan position up to the last nonzero one, its not-EOB boolean unless a
zero came before, its zero or the tree path, extra bits and sign of its level, in the context the level before it left, and an EOB after it unless
position 15 was coded. They determine the levels the block codes: two blocks of one type and context with levels in the range of R64 that emit the
same booleans have the same levels at every coded position. -/
def Obligations.TokensDetermineTheLevels : Prop :=
  (∀ (t : BlockType) (k : Fin 3) (lv : List Int) (last : Nat),
    let first : Nat := if t = .yAfterY2 then 1 else 0
    let z (i : Nat) : Int := coefAt lv (([0, 1, 4, 8, 5, 2, 3, 6, 9, 12, 13, 10, 7, 11, 14, 15] : List Nat).getD i 0)
    first ≤ last → last < 16 → z last ≠ 0 → (∀ i, last < i → i < 16 → z i = 0) →
    let band (i : Nat) : Fin 8 := ([0, 1, 2, 3, 6, 4, 5, 6, 6, 6, 6, 6, 6, 6, 6, 7] : List (Fin 8)).getD i 0
    let ctx (i : Nat) : Fin 3 := if i = first then k else if z (i - 1) = 0 then 0 else if (z (i - 1)).natAbs = 1 then 1 else 2
    let node (i : Nat) (e : Fin 11 × Bool) : TokenBool := .node t (band i) (ctx i) e.1 e.2
    let extra (base : Nat) (pcat : List Nat) (v : Nat) : List TokenBool :=
      pcat.mapIdx fun j p => .fixed p ((v - base).testBit (pcat.length - 1 - j))
    let magnitude (i v : Nat) : List TokenBool :=
      if v = 1 then [(2, false)].map (node i)
      else if v = 2 then [(2, true), (3, false), (4, false)].map (node i)
      else if v = 3 then [(2, true), (3, false), (4, true), (5, false)].map (node i)
      else if v = 4 then [(2, true), (3, false), (4, true), (5, true)].map (node i)
      else if v ≤ 6 then [(2, true), (3, true), (6, false), (7, false)].map (node i) ++ extra 5 [159] v
      else if v ≤ 10 then [(2, true), (3, true), (6, false), (7, true)].map (node i) ++ extra 7 [165, 145] v
      else if v ≤ 18 then [(2, true), (3, true), (6, true), (8, false), (9, false)].map (node i) ++ extra 11 [173, 148, 140] v
      else if v ≤ 34 then [(2, true), (3, true), (6, true), (8, false), (9, true)].map (node i) ++ extra 19 [176, 155, 140, 135] v
      else if v ≤ 66 then [(2, true), (3, true), (6, true), (8, true), (10, false)].map (node i) ++ extra 35 [180, 157, 141, 134, 130] v
      else [(2, true), (3, true), (6, true), (8, true), (10, true)].map (node i) ++
        extra 67 [254, 254, 243, 230, 196, 177, 153, 140, 133, 130, 129] v
    let token (i : Nat) : List TokenBool :=
      (if first < i ∧ z (i - 1) = 0 then [] else [node i (0, true)]) ++
        (if z i = 0 then [node i (1, false)] else [node i (1, true)] ++ magnitude i (z i).natAbs ++ [.fixed 128 (decide (z i < 0))])
    (walkBlock t lv k).1 =
      ((List.range (last + 1 - first)).flatMap fun j => token (first + j)) ++ (if last = 15 then [] else [node (last + 1) (0, false)])) ∧
  ∀ (t : BlockType) (k : Fin 3) (lv lv' : List Int), (∀ x ∈ lv, x.natAbs ≤ 2047) → (∀ x ∈ lv', x.natAbs ≤ 2047) →
    (walkBlock t lv k).1 = (walkBlock t lv' k).1 → SameCoded (firstPosition t) lv lv'

/-- The spec's own inference in R373 ("the token partition P2 does not depend on DEFAULT_COEF_PROBS"): the token partition of a pass is the same
under every probability table that has the adapted value wherever a boolean was counted, so it does not depend on the open default table. -/
def Obligations.TokenPartitionIgnoresTheDefaults : Prop :=
  ∀ (mbw : Nat) (q : QIndex) (mbs : List MbRecord) (probs : List Byte),
    (∀ i < nodeTotal, 0 < (countAt (codeFrame mbw q mbs).counts i).total →
      (probs.getD i 128).toNat = newProb (countAt (codeFrame mbw q mbs).counts i)) →
    flushBytes (putAll BoolEnc.init ((walkFrame mbw mbs).1.map (tokenProb probs))) = (codeFrame mbw q mbs).e2.out

/-- R66, R341, R371, R373: every boolean either partition puts has its probability in 1..255, and so has every entry of the table, which holds the
adapted value where a boolean was counted and the default one elsewhere; the token partition is the flush of the walk's booleans put into a fresh
encoder, each tree boolean at its entry. That the entries of the two OPEN tables lie in 1..255 is the model's choice (log 6). -/
def Obligations.ProbabilitiesAreLegal : Prop :=
  ∀ (mbw : Nat) (q : QIndex) (mbs : List MbRecord),
    let c := codeFrame mbw q mbs
    c.probs.length = 1056 ∧ (∀ p ∈ c.probs, 1 ≤ p.toNat) ∧
    (∀ b ∈ firstPartitionBools q c.counts mbs, 1 ≤ b.1 ∧ b.1 ≤ 255) ∧
    (∀ b ∈ (walkFrame mbw mbs).1.map (tokenProb c.probs), 1 ≤ b.1 ∧ b.1 ≤ 255) ∧
    (∀ (t : Fin 4) (b : Fin 8) (k : Fin 3) (n : Fin 11),
      let x := countAt c.counts (((t.val * 8 + b.val) * 3 + k.val) * 11 + n.val)
      (c.probs.getD (((t.val * 8 + b.val) * 3 + k.val) * 11 + n.val) 0).toNat =
        if 0 < x.zeros + x.ones then max 1 (255 - x.ones * 255 / (x.zeros + x.ones)) else Config.defaultCoefProb t.val b.val k.val n.val) ∧
    c.e2.out = flushBytes (putAll BoolEnc.init ((walkFrame mbw mbs).1.map fun x =>
      match x with
      | .fixed p bit => (p, bit)
      | .node t b k n bit => ((c.probs.getD (((typeIndex t * 8 + b.val) * 3 + k.val) * 11 + n.val) 0).toNat, bit)))

/-- R380, R372, R388, R390: the booleans of the first partition are, in this order, 16 zero bits, the index in 7 bits and 6 zero bits, all
literal; for every entry in the order t, b, k, n an update flag at its probability, followed where it is 1 by the new probability in 8 literal
bits; one literal 0; and the four mode booleans of each macroblock. Their number follows. The first partition of a frame is the flush of them,
with its own counts, put into a fresh encoder. -/
def Obligations.FirstPartitionLayout : Prop :=
  ∀ (q : QIndex) (counts : List NodeCount) (mbs : List MbRecord),
    let bits8 (v : Nat) : List (Nat × Bool) :=
      [(128, v.testBit 7), (128, v.testBit 6), (128, v.testBit 5), (128, v.testBit 4), (128, v.testBit 3), (128, v.testBit 2),
       (128, v.testBit 1), (128, v.testBit 0)]
    let update (t b k n : Nat) : List (Nat × Bool) :=
      let x := countAt counts (((t * 8 + b) * 3 + k) * 11 + n)
      let newp := max 1 (255 - x.ones * 255 / (x.zeros + x.ones))
      if 0 < x.zeros + x.ones ∧ newp ≠ Config.defaultCoefProb t b k n then (Config.coefUpdateProb t b k n, true) :: bits8 newp
      else [(Config.coefUpdateProb t b k n, false)]
    let modes (m : MbRecord) : List (Nat × Bool) :=
      (if m.ymode = .dcPred then [(145, true), (156, false), (163, false)]
       else if m.ymode = .vPred then [(145, true), (156, false), (163, true)]
       else if m.ymode = .hPred then [(145, true), (156, true), (128, false)]
       else [(145, true), (156, true), (128, true)]) ++ [(142, false)]
    firstPartitionBools q counts mbs =
      List.replicate 16 (128, false) ++
        [(128, q.val.testBit 6), (128, q.val.testBit 5), (128, q.val.testBit 4), (128, q.val.testBit 3), (128, q.val.testBit 2),
         (128, q.val.testBit 1), (128, q.val.testBit 0)] ++ List.replicate 6 (128, false) ++
        ((List.range 4).flatMap fun t => (List.range 8).flatMap fun b => (List.range 3).flatMap fun k => (List.range 11).flatMap fun n =>
          update t b k n) ++
        [(128, false)] ++ mbs.flatMap modes ∧
    (firstPartitionBools q counts mbs).length =
      29 + 1056 + 8 * ((List.range 1056).filter (updated counts)).length + 1 + 4 * mbs.length ∧
    ∀ mbw : Nat, (codeFrame mbw q mbs).e1.out =
      flushBytes (putAll BoolEnc.init (firstPartitionBools q (codeFrame mbw q mbs).counts mbs))

/-! The rate controller and the container. -/

/-- R401: the quality mapping is the rule's table over 0..100, and, the spec's own inference in R402, is non-increasing there; its square root is
R13's, the largest integer whose square does not exceed the argument (below 2^32). -/
def Obligations.QualityMapping : Prop :=
  (List.range 101).map (fun q => (qualityIndex q).val) =
    [127, 115, 110, 106, 102, 100, 97, 94, 92, 89, 88, 86, 84, 82, 81, 79, 77, 75, 74, 73,
     72, 70, 69, 68, 67, 64, 64, 63, 61, 60, 59, 58, 56, 55, 54, 53, 51, 51, 50, 49,
     47, 46, 46, 45, 44, 42, 42, 41, 40, 39, 39, 37, 36, 36, 35, 34, 34, 32, 31, 31,
     30, 28, 28, 27, 26, 26, 25, 25, 23, 22, 22, 21, 21, 20, 18, 18, 17, 17, 16, 16,
     14, 13, 13, 12, 12, 11, 11, 9, 9, 8, 8, 7, 7, 6, 6, 4, 4, 3, 3, 2, 0] ∧
  (∀ q < 100, qualityIndex (q + 1) ≤ qualityIndex q) ∧
  (∀ v < 2 ^ 32, isqrt v * isqrt v ≤ v ∧ v < (isqrt v + 1) * (isqrt v + 1))

/-- R406, R408: the tolerance test, on exact integers; in target mode the new result is kept only where it is strictly closer to the target than
the one kept before, and in default mode, and on the first pass, always. -/
def Obligations.ToleranceAndClosestResult : Prop :=
  (∀ s t : Nat, within s t = true ↔ 20 * ((s : Int) - t).natAbs ≤ t) ∧
  (within 950 1000 = true ∧ within 1050 1000 = true ∧ within 1051 1000 = false) ∧
  (∀ (target : Nat) (best : Option PassResult) (r : PassResult), closest .default target best r = r) ∧
  (∀ (target : Nat) (r : PassResult), closest .target target none r = r) ∧
  (∀ (target : Nat) (b r : PassResult),
    closest .target target (some b) r =
      if ((r.size : Int) - target).natAbs < ((b.size : Int) - target).natAbs then r else b)

/-- R407, R409: default mode and a size within tolerance stop at once; in target mode with the size outside it the interval loses the index just
tried and everything on its far side, another pass follows at the middle of what is left where fewer than 8 have run and something is left, and
otherwise the loop stops. The spec's own inference in R409 ("each tried q is removed from [lo, hi] and the next q lies inside it"): when another
pass follows, the new interval lies strictly inside the old one, without the index just tried, and holds the new index. R405, R408: every pass is
counted and offered as the closest result, a stop leaves the index, and nothing else of the session changes. -/
def Obligations.PassLoopMakesProgress : Prop :=
  (∀ (ses : Session) (r : PassResult) (q' : QIndex),
    0 ≤ ses.lo → ses.lo ≤ (ses.q.val : Int) → (ses.q.val : Int) ≤ ses.hi → ses.hi ≤ 127 → (rateStep ses r).2 = .again q' →
    let t := (rateStep ses r).1
    t.q = q' ∧ t.k = ses.k + 1 ∧ t.k < 8 ∧ ses.lo ≤ t.lo ∧ t.hi ≤ ses.hi ∧ t.hi - t.lo < ses.hi - ses.lo ∧
    t.lo ≤ (q'.val : Int) ∧ (q'.val : Int) ≤ t.hi ∧ ((ses.q.val : Int) < t.lo ∨ t.hi < (ses.q.val : Int)) ∧
    (q'.val : Int) = (t.lo + t.hi) / 2 ∧ (ses.cfg.target.toNat < r.size ↔ (ses.q.val : Int) < t.lo)) ∧
  (∀ (ses : Session) (r : PassResult),
    ses.mode = .default ∨ 20 * ((r.size : Int) - ses.cfg.target.toNat).natAbs ≤ ses.cfg.target.toNat → (rateStep ses r).2 = .stop) ∧
  (∀ (ses : Session) (r : PassResult),
    0 ≤ ses.lo → ses.lo ≤ (ses.q.val : Int) → (ses.q.val : Int) ≤ ses.hi → ses.hi ≤ 127 → ses.mode = .target →
    ses.cfg.target.toNat < 20 * ((r.size : Int) - ses.cfg.target.toNat).natAbs →
    let lo := if ses.cfg.target.toNat < r.size then (ses.q.val : Int) + 1 else ses.lo
    let hi := if ses.cfg.target.toNat < r.size then ses.hi else (ses.q.val : Int) - 1
    let t := (rateStep ses r).1
    (t.lo = lo ∧ t.hi = hi ∧ t.k = ses.k + 1) ∧
    (lo ≤ hi → ses.k + 1 < 8 → ∃ q' : QIndex, (rateStep ses r).2 = .again q' ∧ t.q = q' ∧ (q'.val : Int) = (lo + hi) / 2) ∧
    (hi < lo ∨ 8 ≤ ses.k + 1 → (rateStep ses r).2 = .stop)) ∧
  (∀ (ses : Session) (r : PassResult),
    let t := (rateStep ses r).1
    t = { ses with
          k := ses.k + 1, best := some (closest ses.mode ses.cfg.target.toNat ses.best r), q := t.q, lo := t.lo, hi := t.hi } ∧
    ((rateStep ses r).2 = .stop → t.q = ses.q))

/-- R436: the ten header bytes: the frame tag with key 0, version 0, show 1 and the first partition's size, the start code, the dimensions. -/
def Obligations.FrameHeaderFields : Prop :=
  ∀ fps w h : Nat, fps < 2 ^ 19 → w ≤ 16383 → h ≤ 16383 →
    let f := frameHeader fps w h
    f.length = 10 ∧ leValue (f.take 3) = 2 ^ 4 + 2 ^ 5 * fps ∧ (f.drop 3).take 3 = [0x9D, 0x01, 0x2A] ∧
    leValue ((f.drop 6).take 2) = w ∧ leValue (f.drop 8) = h

/-- The spec's own inference in R438: every file is well formed: its three codes, a length of 8 plus the RIFF size field and even, the chunk size
field equal to the payload's length, the payload in place, then a pad byte 0x00 (R433) after an odd payload. R390, R405: a pass's payload is the
frame header of its first partition's length and the image's size, then the two partitions, at least 18 bytes, and its result is the file of that
payload with its size, its index and the payload's length. -/
def Obligations.FilesAreWellFormed : Prop :=
  (∀ payload : List Byte, 12 + payload.length + payload.length % 2 ≤ 0xFFFFFFFF →
    let f := webpFile payload
    f.take 4 = [0x52, 0x49, 0x46, 0x46] ∧ (f.drop 8).take 4 = [0x57, 0x45, 0x42, 0x50] ∧ (f.drop 12).take 4 = [0x56, 0x50, 0x38, 0x20] ∧
    f.length = 8 + leValue ((f.drop 4).take 4) ∧ f.length % 2 = 0 ∧ leValue ((f.drop 16).take 4) = payload.length ∧
    (f.drop 20).take payload.length = payload ∧ f.length = 20 + payload.length + payload.length % 2 ∧
    f.drop (20 + payload.length) = if payload.length % 2 = 1 then [0x00] else []) ∧
  (∀ ses : Session,
    let p := runPass ses
    let l := p.payload.length
    18 ≤ l ∧
    p.payload = frameHeader p.e1.out.length ses.cfg.width.toNat ses.cfg.height.toNat ++ p.e1.out ++ p.e2.out ∧
    p.result = { file := webpFile p.payload, size := 20 + l + l % 2, q := ses.q, payloadLen := l })

/-! The host's side. -/

/-- R520, R521, R117, with the model's records of races (logs 10, 11): between acceptance and the end of CONVERT a host store adds its byte to the
values a read of that address may return and takes none away, and a source read returns one of them; with no such store it returns the byte in
memory. A host store in any phase puts its byte in memory and in WRITE marks its address as raced; a host load gives the byte in memory or, while
the block is in WRITE with a file that fits, possibly the file byte for that address. Each takes its input and changes nothing else a host or the
block can see. -/
def Obligations.RacedReadIsAHeldValue : Prop :=
  (∀ (s : State) (a : Word), sourceByte s a ∈ heldValues s a.toNat ∧ (raceValues s a.toNat = [] → sourceByte s a = readByte s.mem a.toNat)) ∧
  (∀ (s : State) (a : Word) (b : Byte) (rest : List Input), s.inputs = .hostStore a b :: rest → s.platform.dmaCoherent = true →
    s.mem.wf = true → s.phase = .check ∨ s.phase = .convert → inRegisterWindow s.platform a = false → regionKind s.platform a = .ram →
    ∃ t, step s = .next t ∧ t.inputs = rest ∧ t.session = s.session ∧ t.phase = s.phase ∧ t.regs = s.regs ∧
      t.platform = s.platform ∧ t.hostCache = s.hostCache ∧ t.busData = s.busData ∧ t.hostByte = s.hostByte ∧ t.freeCount = s.freeCount ∧
      ∀ (x : Nat) (v : Byte), v ∈ heldValues t x ↔ v ∈ heldValues s x ∨ (x = a.toNat ∧ v = b)) ∧
  (∀ (s : State) (a : Word) (b : Byte) (rest : List Input), s.inputs = .hostStore a b :: rest → s.platform.dmaCoherent = true →
    s.mem.wf = true → inRegisterWindow s.platform a = false → regionKind s.platform a = .ram →
    ∃ t, step s = .next t ∧ t.inputs = rest ∧ t.session = s.session ∧ t.phase = s.phase ∧ t.regs = s.regs ∧
      t.platform = s.platform ∧ t.hostCache = s.hostCache ∧ t.busData = s.busData ∧ t.hostByte = s.hostByte ∧ t.freeCount = s.freeCount ∧
      (∀ x, readByte t.mem x = if x = a.toNat then b else readByte s.mem x) ∧
      (s.phase ≠ .check → s.phase ≠ .convert → t.srcRace = s.srcRace) ∧
      ∀ x, x ∈ t.dstRace ↔ x ∈ s.dstRace ∨ (s.phase = .write ∧ x = a.toNat)) ∧
  (∀ (s : State) (a : Word) (rest : List Input), s.inputs = .hostLoad a :: rest → s.platform.dmaCoherent = true →
    inRegisterWindow s.platform a = false → regionKind s.platform a = .ram →
    ∃ t, step s = .next t ∧ t.inputs = rest ∧ t.session = s.session ∧ t.phase = s.phase ∧ t.regs = s.regs ∧
      t.platform = s.platform ∧ t.hostCache = s.hostCache ∧ t.busData = s.busData ∧ t.mem = s.mem ∧ t.srcRace = s.srcRace ∧ t.dstRace = s.dstRace ∧
      (t.hostByte = readByte s.mem a.toNat ∨
        (s.phase = .write ∧ ∃ best i, s.session.best = some best ∧ best.size ≤ s.session.cfg.dstCap.toNat ∧ i < best.file.length ∧
          addrPlus s.session.cfg.dstAddr i = a ∧ t.hostByte = best.file.getD i 0)))

/-- R119, with the model's byte-wise host cache (log 9): where the port is not coherent a host store stays in the host's cache, out of the block's
sight and of the records of races, until the host cleans it, and is then a host store at that moment, so that in CHECK and CONVERT the values a
read may return gain it and lose none and in WRITE its address is marked as raced (logs 10, 11); a load of a cached byte, dirty or clean, gives
the cached one and changes nothing else; and once the host has invalidated a byte, its next load gives the byte at the port: the one in memory or,
while the block is in WRITE with a file that fits, possibly the file byte for that address (R117). So does a load of a byte that is not cached,
which is then cached as loaded. Whether or not the port is coherent, cleaning a byte that is not cached, or not dirty, changes nothing, cleaning a
dirty one is that store and leaves it cached, and invalidating a byte drops it from the cache, a dirty one too, and changes nothing else. -/
def Obligations.CleaningMakesAStoreVisible : Prop :=
  (∀ (s : State) (a : Word) (b : Byte) (rest : List Input), s.inputs = .hostStore a b :: .cacheClean a :: rest →
    s.platform.dmaCoherent = false → s.mem.wf = true → inRegisterWindow s.platform a = false → regionKind s.platform a = .ram →
    ∃ t u, step s = .next t ∧ t.inputs = .cacheClean a :: rest ∧ t.mem = s.mem ∧ t.srcRace = s.srcRace ∧ t.dstRace = s.dstRace ∧
      t.regs = s.regs ∧ t.phase = s.phase ∧ t.session = s.session ∧ t.platform = s.platform ∧
      (∀ x, cacheFind t.hostCache x = if x = a.toNat then some { addr := x, byte := b, dirty := true } else cacheFind s.hostCache x) ∧
      step t = .next u ∧ u.inputs = rest ∧ u.regs = s.regs ∧ u.phase = s.phase ∧ u.session = s.session ∧ u.platform = s.platform ∧
      (∀ x, readByte u.mem x = if x = a.toNat then b else readByte s.mem x) ∧
      (s.phase = .check ∨ s.phase = .convert → ∀ (x : Nat) (v : Byte), v ∈ heldValues u x ↔ v ∈ heldValues s x ∨ (x = a.toNat ∧ v = b)) ∧
      (s.phase ≠ .check → s.phase ≠ .convert → u.srcRace = s.srcRace) ∧
      ∀ x, x ∈ u.dstRace ↔ x ∈ s.dstRace ∨ (s.phase = .write ∧ x = a.toNat)) ∧
  (∀ (s : State) (a : Word) (b : Byte) (rest : List Input), s.inputs = .hostStore a b :: .hostLoad a :: rest →
    s.platform.dmaCoherent = false → inRegisterWindow s.platform a = false → regionKind s.platform a = .ram →
    ∃ t u, step s = .next t ∧ step t = .next u ∧ u.inputs = rest ∧ u.mem = s.mem ∧ u.regs = s.regs ∧ u.phase = s.phase ∧
      u.session = s.session ∧ u.platform = s.platform ∧ u.hostByte = b) ∧
  (∀ (s : State) (a : Word) (l : HostLine) (rest : List Input), s.inputs = .hostLoad a :: rest →
    s.platform.dmaCoherent = false → inRegisterWindow s.platform a = false → regionKind s.platform a = .ram →
    cacheFind s.hostCache a.toNat = some l → step s = .next { s with inputs := rest, hostByte := l.byte }) ∧
  (∀ (s : State) (a : Word) (rest : List Input), s.inputs = .cacheInvalidate a :: .hostLoad a :: rest →
    s.platform.dmaCoherent = false → inRegisterWindow s.platform a = false → regionKind s.platform a = .ram →
    ∃ t u, step s = .next t ∧ step t = .next u ∧ u.inputs = rest ∧ u.mem = s.mem ∧ u.regs = s.regs ∧ u.phase = s.phase ∧
      u.session = s.session ∧ u.platform = s.platform ∧
      (u.hostByte = readByte s.mem a.toNat ∨
        (s.phase = .write ∧ ∃ best i, s.session.best = some best ∧ best.size ≤ s.session.cfg.dstCap.toNat ∧ i < best.file.length ∧
          addrPlus s.session.cfg.dstAddr i = a ∧ u.hostByte = best.file.getD i 0))) ∧
  (∀ (s : State) (a : Word) (rest : List Input), s.inputs = .hostLoad a :: rest →
    s.platform.dmaCoherent = false → inRegisterWindow s.platform a = false → regionKind s.platform a = .ram →
    cacheFind s.hostCache a.toNat = none →
    ∃ t, step s = .next t ∧ t.inputs = rest ∧ t.mem = s.mem ∧ t.regs = s.regs ∧ t.phase = s.phase ∧ t.session = s.session ∧
      t.platform = s.platform ∧ t.srcRace = s.srcRace ∧ t.dstRace = s.dstRace ∧
      (∀ x, cacheFind t.hostCache x = if x = a.toNat then some { addr := x, byte := t.hostByte, dirty := false } else cacheFind s.hostCache x) ∧
      (t.hostByte = readByte s.mem a.toNat ∨
        (s.phase = .write ∧ ∃ best i, s.session.best = some best ∧ best.size ≤ s.session.cfg.dstCap.toNat ∧ i < best.file.length ∧
          addrPlus s.session.cfg.dstAddr i = a ∧ t.hostByte = best.file.getD i 0))) ∧
  (∀ (s : State) (a : Word) (rest : List Input), s.inputs = .cacheClean a :: rest →
    inRegisterWindow s.platform a = false → regionKind s.platform a = .ram →
    ((∀ l, cacheFind s.hostCache a.toNat = some l → l.dirty = false) → step s = .next { s with inputs := rest }) ∧
    (∀ l, s.mem.wf = true → cacheFind s.hostCache a.toNat = some l → l.dirty = true →
      ∃ t, step s = .next t ∧ t.inputs = rest ∧ t.regs = s.regs ∧ t.phase = s.phase ∧ t.session = s.session ∧ t.platform = s.platform ∧
        t.hostByte = s.hostByte ∧
        (∀ x, cacheFind t.hostCache x = if x = a.toNat then some { l with dirty := false } else cacheFind s.hostCache x) ∧
        (∀ x, readByte t.mem x = if x = a.toNat then l.byte else readByte s.mem x) ∧
        (s.phase = .check ∨ s.phase = .convert →
          ∀ (x : Nat) (v : Byte), v ∈ heldValues t x ↔ v ∈ heldValues s x ∨ (x = a.toNat ∧ v = l.byte)) ∧
        (s.phase ≠ .check → s.phase ≠ .convert → t.srcRace = s.srcRace) ∧
        ∀ x, x ∈ t.dstRace ↔ x ∈ s.dstRace ∨ (s.phase = .write ∧ x = a.toNat))) ∧
  (∀ (s : State) (a : Word) (rest : List Input), s.inputs = .cacheInvalidate a :: rest →
    inRegisterWindow s.platform a = false → regionKind s.platform a = .ram →
    ∃ c, step s = .next { s with inputs := rest, hostCache := c } ∧
      ∀ x, cacheFind c x = if x = a.toNat then none else cacheFind s.hostCache x)
end

