-- ==== Sys2Proof/Laws/Flags.lean ====
section
/-! SUPPORT. The bits of STATUS and CTRL after each update. -/

namespace Sys2Proof.Machine

/-- Setting one bit sets that bit and keeps the others. -/
theorem getLsbD_setBit (w : Word) (i : Nat) (hi : i < 32) (b : Bool) (j : Nat) :
    (setBit w i b).getLsbD j = if j = i then b else w.getLsbD j := by
  unfold setBit
  by_cases hj : j < 32
  · by_cases hji : j = i
    · subst hji
      cases b <;> simp [hj]
    · cases b
      · have : j < i ∨ i < j := by omega
        rcases this with h | h
        · simp [hj, hji, h]
        · have h2 : ¬ j - i = 0 := by omega
          simp [hj, hji, h2]
      · have : j < i ∨ i < j := by omega
        rcases this with h | h
        · simp [hji, BitVec.getLsbD_shiftLeft, h]
        · have h2 : ¬ j - i = 0 := by omega
          simp [hji, BitVec.getLsbD_shiftLeft, h2]
  · have : j ≠ i := by omega
    rw [if_neg this, BitVec.getLsbD_of_ge _ _ (by omega), BitVec.getLsbD_of_ge _ _ (by omega)]

@[simp] theorem statusAccepted_getLsbD (st : Word) (j : Nat) :
    (statusAccepted st).getLsbD j = if j = busyBit then true else if j = errBit then false else if j = doneBit then false
      else st.getLsbD j := by
  rw [statusAccepted, getLsbD_setBit _ _ (by decide), getLsbD_setBit _ _ (by decide), getLsbD_setBit _ _ (by decide)]

@[simp] theorem statusCompleted_getLsbD (st : Word) (j : Nat) :
    (statusCompleted st).getLsbD j = if j = doneBit then true else if j = busyBit then false else st.getLsbD j := by
  rw [statusCompleted, getLsbD_setBit _ _ (by decide), getLsbD_setBit _ _ (by decide)]

@[simp] theorem statusErrored_getLsbD (st : Word) (j : Nat) :
    (statusErrored st).getLsbD j = if j = doneBit then false else if j = busyBit then false else if j = errBit then true
      else st.getLsbD j := by
  rw [statusErrored, getLsbD_setBit _ _ (by decide), getLsbD_setBit _ _ (by decide), getLsbD_setBit _ _ (by decide)]

@[simp] theorem statusCleared_getLsbD (st : Word) (j : Nat) :
    (statusCleared st).getLsbD j = if j = badCmdBit then false else if j = cmdDroppedBit then false else if j = errBit then false
      else if j = doneBit then false else st.getLsbD j := by
  rw [statusCleared, getLsbD_setBit _ _ (by decide), getLsbD_setBit _ _ (by decide), getLsbD_setBit _ _ (by decide), getLsbD_setBit _ _ (by decide)]

@[simp] theorem ctrlStored_getLsbD (d : Word) (j : Nat) :
    (ctrlStored d).getLsbD j = if j = irqEnBit then d.getLsbD irqEnBit else false := by
  rw [ctrlStored, getLsbD_setBit _ _ (by decide)]
  simp

end Sys2Proof.Machine
end

