-- ==== Sys2Proof/Laws/Memory.lean ====
section
/-! SUPPORT. Host memory: a read after a write, and the canonical form every memory operation keeps. -/

namespace Sys2Proof.Machine

@[simp] theorem readByte_nil (a : Nat) : readByte [] a = unwrittenByte := rfl

theorem readByte_cons (c : Host.Cell) (m : Memory) (a : Nat) :
    readByte (c :: m) a = if c.1 = a then c.2 else readByte m a := rfl

/-- Every address of a memory in canonical form above `lo` lies above `lo`. -/
theorem wfAbove_lt {lo : Int} {m : Memory} (h : Memory.wfAbove lo m = true) : ∀ c ∈ m, lo < (c.1 : Int) := by
  induction m generalizing lo with
  | nil => intro c hc; cases hc
  | cons d m ih =>
    simp only [Memory.wfAbove, Bool.and_eq_true, decide_eq_true_eq] at h
    obtain ⟨⟨⟨h1, _⟩, _⟩, h4⟩ := h
    intro c hc
    rcases List.mem_cons.mp hc with rfl | hc
    · exact h1
    · exact lt_trans h1 (ih h4 c hc)

/-- Canonical form above a bound is canonical form above any lower bound. -/
theorem wfAbove_mono {lo lo' : Int} {m : Memory} (hle : lo' ≤ lo) (h : Memory.wfAbove lo m = true) :
    Memory.wfAbove lo' m = true := by
  cases m with
  | nil => rfl
  | cons d m =>
    simp only [Memory.wfAbove, Bool.and_eq_true, decide_eq_true_eq] at h ⊢
    exact ⟨⟨⟨lt_of_le_of_lt hle h.1.1.1, h.1.1.2⟩, h.1.2⟩, h.2⟩

/-- An address that no entry has reads as an unwritten byte. -/
theorem readByte_of_notMem {m : Memory} {a : Nat} (h : ∀ c ∈ m, c.1 ≠ a) : readByte m a = unwrittenByte := by
  induction m with
  | nil => rfl
  | cons d m ih =>
    rw [readByte_cons, if_neg (h d (by simp)), ih fun c hc => h c (List.mem_cons_of_mem _ hc)]

/-- An address at or below the bound reads as an unwritten byte. -/
theorem readByte_of_le {lo : Int} {m : Memory} (h : Memory.wfAbove lo m = true) {a : Nat} (ha : (a : Int) ≤ lo) :
    readByte m a = unwrittenByte :=
  readByte_of_notMem fun c hc => by have := wfAbove_lt h c hc; omega

/-- A write leaves every other byte alone. -/
theorem readByte_writeByte_other (m : Memory) {a b : Nat} (v : Byte) (hab : b ≠ a) :
    readByte (writeByte m a v) b = readByte m b := by
  induction m with
  | nil =>
    simp only [writeByte]
    split
    · rfl
    · rw [readByte_cons, if_neg (fun h => hab h.symm)]
  | cons d m ih =>
    simp only [writeByte]
    split
    · split
      · rfl
      · rw [readByte_cons, if_neg (fun h => hab h.symm)]
    · split
      · next h =>
        subst h
        split
        · rw [readByte_cons, if_neg (fun h => hab h.symm)]
        · rw [readByte_cons, readByte_cons, if_neg (fun h => hab h.symm), if_neg (fun h => hab h.symm)]
      · rw [readByte_cons, readByte_cons, ih]

/-- A read after a write to the same place gives the value written. -/
theorem readByte_writeByte_same {lo : Int} {m : Memory} (h : Memory.wfAbove lo m = true) (a : Nat) (v : Byte) :
    readByte (writeByte m a v) a = v := by
  induction m generalizing lo with
  | nil =>
    simp only [writeByte]
    split
    · next hv => rw [readByte_nil, hv]
    · rw [readByte_cons, if_pos rfl]
  | cons d m ih =>
    simp only [Memory.wfAbove, Bool.and_eq_true, decide_eq_true_eq] at h
    obtain ⟨_, h4⟩ := h
    simp only [writeByte]
    split
    · next hlt =>
      split
      · next hv =>
        rw [readByte_cons, if_neg (by omega), readByte_of_le h4 (by omega), hv]
      · rw [readByte_cons, if_pos rfl]
    · split
      · next heq =>
        subst heq
        split
        · next hv => rw [readByte_of_le h4 (le_refl _), hv]
        · rw [readByte_cons, if_pos rfl]
      · next hne =>
        rw [readByte_cons, if_neg (fun h => hne h.symm), ih h4]

/-- A write below 2^32 keeps the canonical form. -/
theorem writeByte_wfAbove {lo : Int} {m : Memory} (h : Memory.wfAbove lo m = true) {a : Nat} (v : Byte)
    (ha : a < 2 ^ 32) (hlo : lo < (a : Int)) : Memory.wfAbove lo (writeByte m a v) = true := by
  induction m generalizing lo with
  | nil =>
    simp only [writeByte]
    split
    · rfl
    · next hv =>
      simp only [Memory.wfAbove, Bool.and_eq_true, decide_eq_true_eq]
      exact ⟨⟨⟨hlo, ha⟩, hv⟩, trivial⟩
  | cons d m ih =>
    have h0 := h
    simp only [Memory.wfAbove, Bool.and_eq_true, decide_eq_true_eq] at h
    obtain ⟨⟨⟨h1, h2⟩, h3⟩, h4⟩ := h
    simp only [writeByte]
    split
    · next hlt =>
      split
      · exact h0
      · next hv =>
        simp only [Memory.wfAbove, Bool.and_eq_true, decide_eq_true_eq]
        exact ⟨⟨⟨hlo, ha⟩, hv⟩, ⟨⟨⟨by exact_mod_cast hlt, h2⟩, h3⟩, h4⟩⟩
    · split
      · next heq =>
        split
        · exact wfAbove_mono (le_of_lt h1) h4
        · next hv =>
          simp only [Memory.wfAbove, Bool.and_eq_true, decide_eq_true_eq]
          exact ⟨⟨⟨hlo, ha⟩, hv⟩, heq ▸ h4⟩
      · next hnlt hne =>
        simp only [Memory.wfAbove, Bool.and_eq_true, decide_eq_true_eq]
        exact ⟨⟨⟨h1, h2⟩, h3⟩, ih h4 (by omega)⟩

/-- A write of one byte keeps the canonical form. -/
theorem writeByte_wf {m : Memory} (h : m.wf = true) {a : Nat} (v : Byte) (ha : a < 2 ^ 32) : (writeByte m a v).wf = true :=
  writeByte_wfAbove h v ha (by omega)

/-- A read after a write to a memory in canonical form. -/
theorem readByte_writeByte {m : Memory} (h : m.wf = true) (a b : Nat) (v : Byte) :
    readByte (writeByte m a v) b = if b = a then v else readByte m b := by
  split
  · next hb => rw [hb, readByte_writeByte_same h]
  · next hb => exact readByte_writeByte_other m v hb

/-- A list of writes keeps the canonical form. -/
theorem writeCells_wf {m : Memory} (h : m.wf = true) {cells : List Host.Cell} (hc : ∀ c ∈ cells, c.1 < 2 ^ 32) :
    (writeCells m cells).wf = true := by
  induction cells generalizing m with
  | nil => exact h
  | cons c cs ih =>
    exact ih (writeByte_wf h c.2 (hc c (by simp))) fun d hd => hc d (List.mem_cons_of_mem _ hd)

/-- A list of writes leaves every byte it does not name alone. -/
theorem readByte_writeCells_other {m : Memory} {cells : List Host.Cell} {a : Nat} (h : ∀ c ∈ cells, c.1 ≠ a) :
    readByte (writeCells m cells) a = readByte m a := by
  induction cells generalizing m with
  | nil => rfl
  | cons c cs ih =>
    exact (ih fun d hd => h d (List.mem_cons_of_mem _ hd)).trans
      (readByte_writeByte_other m c.2 fun e => h c (by simp) e.symm)

/-- A list of writes to distinct addresses leaves each named byte at its value. -/
theorem readByte_writeCells_mem {m : Memory} (hm : m.wf = true) {cells : List Host.Cell}
    (hlt : ∀ c ∈ cells, c.1 < 2 ^ 32) (hnd : (cells.map (·.1)).Nodup) {c : Host.Cell} (hc : c ∈ cells) :
    readByte (writeCells m cells) c.1 = c.2 := by
  induction cells generalizing m with
  | nil => cases hc
  | cons d ds ih =>
    simp only [List.map_cons, List.nodup_cons] at hnd
    rcases List.mem_cons.mp hc with rfl | hc
    · have hrest : readByte (writeCells (writeByte m c.1 c.2) ds) c.1 = readByte (writeByte m c.1 c.2) c.1 :=
        readByte_writeCells_other fun e he heq => hnd.1 (heq ▸ List.mem_map_of_mem he)
      exact hrest.trans (readByte_writeByte_same hm _ _)
    · exact ih (writeByte_wf hm d.2 (hlt d (by simp))) (fun e he => hlt e (List.mem_cons_of_mem _ he)) hnd.2 hc

end Sys2Proof.Machine
end

