-- ==== Sys2Proof/Laws/State.lean ====
section
/-! SUPPORT. One lemma per field per named update of the state. -/

namespace Sys2Proof.Machine

@[simp] theorem dropCommand_mem (s : State) : (dropCommand s).mem = s.mem := rfl
@[simp] theorem dropCommand_inputs (s : State) : (dropCommand s).inputs = s.inputs := rfl
@[simp] theorem dropCommand_platform (s : State) : (dropCommand s).platform = s.platform := rfl
@[simp] theorem dropCommand_busData (s : State) : (dropCommand s).busData = s.busData := rfl
@[simp] theorem dropCommand_hostByte (s : State) : (dropCommand s).hostByte = s.hostByte := rfl
@[simp] theorem dropCommand_hostCache (s : State) : (dropCommand s).hostCache = s.hostCache := rfl
@[simp] theorem dropCommand_srcRace (s : State) : (dropCommand s).srcRace = s.srcRace := rfl
@[simp] theorem dropCommand_dstRace (s : State) : (dropCommand s).dstRace = s.dstRace := rfl
@[simp] theorem dropCommand_freeCount (s : State) : (dropCommand s).freeCount = s.freeCount := rfl
@[simp] theorem dropCommand_phase (s : State) : (dropCommand s).phase = s.phase := rfl
@[simp] theorem dropCommand_session (s : State) : (dropCommand s).session = s.session := rfl
@[simp] theorem dropCommand_regs_ctrl (s : State) : (dropCommand s).regs.ctrl = s.regs.ctrl := rfl
@[simp] theorem dropCommand_regs_status (s : State) : (dropCommand s).regs.status = setBit s.regs.status cmdDroppedBit true := rfl
@[simp] theorem dropCommand_regs_errCode (s : State) : (dropCommand s).regs.errCode = s.regs.errCode := rfl
@[simp] theorem dropCommand_regs_srcAddr (s : State) : (dropCommand s).regs.srcAddr = s.regs.srcAddr := rfl
@[simp] theorem dropCommand_regs_srcLen (s : State) : (dropCommand s).regs.srcLen = s.regs.srcLen := rfl
@[simp] theorem dropCommand_regs_stride (s : State) : (dropCommand s).regs.stride = s.regs.stride := rfl
@[simp] theorem dropCommand_regs_width (s : State) : (dropCommand s).regs.width = s.regs.width := rfl
@[simp] theorem dropCommand_regs_height (s : State) : (dropCommand s).regs.height = s.regs.height := rfl
@[simp] theorem dropCommand_regs_format (s : State) : (dropCommand s).regs.format = s.regs.format := rfl
@[simp] theorem dropCommand_regs_quality (s : State) : (dropCommand s).regs.quality = s.regs.quality := rfl
@[simp] theorem dropCommand_regs_method (s : State) : (dropCommand s).regs.method = s.regs.method := rfl
@[simp] theorem dropCommand_regs_targetSize (s : State) : (dropCommand s).regs.targetSize = s.regs.targetSize := rfl
@[simp] theorem dropCommand_regs_dstAddr (s : State) : (dropCommand s).regs.dstAddr = s.regs.dstAddr := rfl
@[simp] theorem dropCommand_regs_dstCap (s : State) : (dropCommand s).regs.dstCap = s.regs.dstCap := rfl
@[simp] theorem dropCommand_regs_outLen (s : State) : (dropCommand s).regs.outLen = s.regs.outLen := rfl
@[simp] theorem dropCommand_regs_qUsed (s : State) : (dropCommand s).regs.qUsed = s.regs.qUsed := rfl
@[simp] theorem dropCommand_regs_passes (s : State) : (dropCommand s).regs.passes = s.regs.passes := rfl
@[simp] theorem dropCommand_regs_payloadLen (s : State) : (dropCommand s).regs.payloadLen = s.regs.payloadLen := rfl

@[simp] theorem flagBadCommand_mem (s : State) : (flagBadCommand s).mem = s.mem := rfl
@[simp] theorem flagBadCommand_inputs (s : State) : (flagBadCommand s).inputs = s.inputs := rfl
@[simp] theorem flagBadCommand_platform (s : State) : (flagBadCommand s).platform = s.platform := rfl
@[simp] theorem flagBadCommand_busData (s : State) : (flagBadCommand s).busData = s.busData := rfl
@[simp] theorem flagBadCommand_hostByte (s : State) : (flagBadCommand s).hostByte = s.hostByte := rfl
@[simp] theorem flagBadCommand_hostCache (s : State) : (flagBadCommand s).hostCache = s.hostCache := rfl
@[simp] theorem flagBadCommand_srcRace (s : State) : (flagBadCommand s).srcRace = s.srcRace := rfl
@[simp] theorem flagBadCommand_dstRace (s : State) : (flagBadCommand s).dstRace = s.dstRace := rfl
@[simp] theorem flagBadCommand_freeCount (s : State) : (flagBadCommand s).freeCount = s.freeCount := rfl
@[simp] theorem flagBadCommand_phase (s : State) : (flagBadCommand s).phase = s.phase := rfl
@[simp] theorem flagBadCommand_session (s : State) : (flagBadCommand s).session = s.session := rfl
@[simp] theorem flagBadCommand_regs_ctrl (s : State) : (flagBadCommand s).regs.ctrl = s.regs.ctrl := rfl
@[simp] theorem flagBadCommand_regs_status (s : State) : (flagBadCommand s).regs.status = setBit s.regs.status badCmdBit true := rfl
@[simp] theorem flagBadCommand_regs_errCode (s : State) : (flagBadCommand s).regs.errCode = s.regs.errCode := rfl
@[simp] theorem flagBadCommand_regs_srcAddr (s : State) : (flagBadCommand s).regs.srcAddr = s.regs.srcAddr := rfl
@[simp] theorem flagBadCommand_regs_srcLen (s : State) : (flagBadCommand s).regs.srcLen = s.regs.srcLen := rfl
@[simp] theorem flagBadCommand_regs_stride (s : State) : (flagBadCommand s).regs.stride = s.regs.stride := rfl
@[simp] theorem flagBadCommand_regs_width (s : State) : (flagBadCommand s).regs.width = s.regs.width := rfl
@[simp] theorem flagBadCommand_regs_height (s : State) : (flagBadCommand s).regs.height = s.regs.height := rfl
@[simp] theorem flagBadCommand_regs_format (s : State) : (flagBadCommand s).regs.format = s.regs.format := rfl
@[simp] theorem flagBadCommand_regs_quality (s : State) : (flagBadCommand s).regs.quality = s.regs.quality := rfl
@[simp] theorem flagBadCommand_regs_method (s : State) : (flagBadCommand s).regs.method = s.regs.method := rfl
@[simp] theorem flagBadCommand_regs_targetSize (s : State) : (flagBadCommand s).regs.targetSize = s.regs.targetSize := rfl
@[simp] theorem flagBadCommand_regs_dstAddr (s : State) : (flagBadCommand s).regs.dstAddr = s.regs.dstAddr := rfl
@[simp] theorem flagBadCommand_regs_dstCap (s : State) : (flagBadCommand s).regs.dstCap = s.regs.dstCap := rfl
@[simp] theorem flagBadCommand_regs_outLen (s : State) : (flagBadCommand s).regs.outLen = s.regs.outLen := rfl
@[simp] theorem flagBadCommand_regs_qUsed (s : State) : (flagBadCommand s).regs.qUsed = s.regs.qUsed := rfl
@[simp] theorem flagBadCommand_regs_passes (s : State) : (flagBadCommand s).regs.passes = s.regs.passes := rfl
@[simp] theorem flagBadCommand_regs_payloadLen (s : State) : (flagBadCommand s).regs.payloadLen = s.regs.payloadLen := rfl

@[simp] theorem acceptEncode_mem (cfg : EncConfig) (s : State) : (acceptEncode cfg s).mem = s.mem := rfl
@[simp] theorem acceptEncode_inputs (cfg : EncConfig) (s : State) : (acceptEncode cfg s).inputs = s.inputs := rfl
@[simp] theorem acceptEncode_platform (cfg : EncConfig) (s : State) : (acceptEncode cfg s).platform = s.platform := rfl
@[simp] theorem acceptEncode_busData (cfg : EncConfig) (s : State) : (acceptEncode cfg s).busData = s.busData := rfl
@[simp] theorem acceptEncode_hostByte (cfg : EncConfig) (s : State) : (acceptEncode cfg s).hostByte = s.hostByte := rfl
@[simp] theorem acceptEncode_hostCache (cfg : EncConfig) (s : State) : (acceptEncode cfg s).hostCache = s.hostCache := rfl
@[simp] theorem acceptEncode_srcRace (cfg : EncConfig) (s : State) : (acceptEncode cfg s).srcRace = [] := rfl
@[simp] theorem acceptEncode_dstRace (cfg : EncConfig) (s : State) : (acceptEncode cfg s).dstRace = [] := rfl
@[simp] theorem acceptEncode_freeCount (cfg : EncConfig) (s : State) : (acceptEncode cfg s).freeCount = s.freeCount := rfl
@[simp] theorem acceptEncode_phase (cfg : EncConfig) (s : State) : (acceptEncode cfg s).phase = .check := rfl
@[simp] theorem acceptEncode_session (cfg : EncConfig) (s : State) : (acceptEncode cfg s).session = { s.session with cfg := cfg } := rfl
@[simp] theorem acceptEncode_regs_ctrl (cfg : EncConfig) (s : State) : (acceptEncode cfg s).regs.ctrl = s.regs.ctrl := rfl
@[simp] theorem acceptEncode_regs_status (cfg : EncConfig) (s : State) : (acceptEncode cfg s).regs.status = statusAccepted s.regs.status := rfl
@[simp] theorem acceptEncode_regs_errCode (cfg : EncConfig) (s : State) : (acceptEncode cfg s).regs.errCode = 0 := rfl
@[simp] theorem acceptEncode_regs_srcAddr (cfg : EncConfig) (s : State) : (acceptEncode cfg s).regs.srcAddr = s.regs.srcAddr := rfl
@[simp] theorem acceptEncode_regs_srcLen (cfg : EncConfig) (s : State) : (acceptEncode cfg s).regs.srcLen = s.regs.srcLen := rfl
@[simp] theorem acceptEncode_regs_stride (cfg : EncConfig) (s : State) : (acceptEncode cfg s).regs.stride = s.regs.stride := rfl
@[simp] theorem acceptEncode_regs_width (cfg : EncConfig) (s : State) : (acceptEncode cfg s).regs.width = s.regs.width := rfl
@[simp] theorem acceptEncode_regs_height (cfg : EncConfig) (s : State) : (acceptEncode cfg s).regs.height = s.regs.height := rfl
@[simp] theorem acceptEncode_regs_format (cfg : EncConfig) (s : State) : (acceptEncode cfg s).regs.format = s.regs.format := rfl
@[simp] theorem acceptEncode_regs_quality (cfg : EncConfig) (s : State) : (acceptEncode cfg s).regs.quality = s.regs.quality := rfl
@[simp] theorem acceptEncode_regs_method (cfg : EncConfig) (s : State) : (acceptEncode cfg s).regs.method = s.regs.method := rfl
@[simp] theorem acceptEncode_regs_targetSize (cfg : EncConfig) (s : State) : (acceptEncode cfg s).regs.targetSize = s.regs.targetSize := rfl
@[simp] theorem acceptEncode_regs_dstAddr (cfg : EncConfig) (s : State) : (acceptEncode cfg s).regs.dstAddr = s.regs.dstAddr := rfl
@[simp] theorem acceptEncode_regs_dstCap (cfg : EncConfig) (s : State) : (acceptEncode cfg s).regs.dstCap = s.regs.dstCap := rfl
@[simp] theorem acceptEncode_regs_outLen (cfg : EncConfig) (s : State) : (acceptEncode cfg s).regs.outLen = 0 := rfl
@[simp] theorem acceptEncode_regs_qUsed (cfg : EncConfig) (s : State) : (acceptEncode cfg s).regs.qUsed = 0 := rfl
@[simp] theorem acceptEncode_regs_passes (cfg : EncConfig) (s : State) : (acceptEncode cfg s).regs.passes = 0 := rfl
@[simp] theorem acceptEncode_regs_payloadLen (cfg : EncConfig) (s : State) : (acceptEncode cfg s).regs.payloadLen = 0 := rfl

@[simp] theorem raiseError_mem (code : ErrorCode) (s : State) : (raiseError code s).mem = s.mem := rfl
@[simp] theorem raiseError_inputs (code : ErrorCode) (s : State) : (raiseError code s).inputs = s.inputs := rfl
@[simp] theorem raiseError_platform (code : ErrorCode) (s : State) : (raiseError code s).platform = s.platform := rfl
@[simp] theorem raiseError_busData (code : ErrorCode) (s : State) : (raiseError code s).busData = s.busData := rfl
@[simp] theorem raiseError_hostByte (code : ErrorCode) (s : State) : (raiseError code s).hostByte = s.hostByte := rfl
@[simp] theorem raiseError_hostCache (code : ErrorCode) (s : State) : (raiseError code s).hostCache = s.hostCache := rfl
@[simp] theorem raiseError_srcRace (code : ErrorCode) (s : State) : (raiseError code s).srcRace = s.srcRace := rfl
@[simp] theorem raiseError_dstRace (code : ErrorCode) (s : State) : (raiseError code s).dstRace = s.dstRace := rfl
@[simp] theorem raiseError_freeCount (code : ErrorCode) (s : State) : (raiseError code s).freeCount = s.freeCount := rfl
@[simp] theorem raiseError_phase (code : ErrorCode) (s : State) : (raiseError code s).phase = .idle := rfl
@[simp] theorem raiseError_session (code : ErrorCode) (s : State) : (raiseError code s).session = Session.unspecified := rfl
@[simp] theorem raiseError_regs_ctrl (code : ErrorCode) (s : State) : (raiseError code s).regs.ctrl = s.regs.ctrl := rfl
@[simp] theorem raiseError_regs_status (code : ErrorCode) (s : State) : (raiseError code s).regs.status = statusErrored s.regs.status := rfl
@[simp] theorem raiseError_regs_errCode (code : ErrorCode) (s : State) : (raiseError code s).regs.errCode = errorNumber code := rfl
@[simp] theorem raiseError_regs_srcAddr (code : ErrorCode) (s : State) : (raiseError code s).regs.srcAddr = s.regs.srcAddr := rfl
@[simp] theorem raiseError_regs_srcLen (code : ErrorCode) (s : State) : (raiseError code s).regs.srcLen = s.regs.srcLen := rfl
@[simp] theorem raiseError_regs_stride (code : ErrorCode) (s : State) : (raiseError code s).regs.stride = s.regs.stride := rfl
@[simp] theorem raiseError_regs_width (code : ErrorCode) (s : State) : (raiseError code s).regs.width = s.regs.width := rfl
@[simp] theorem raiseError_regs_height (code : ErrorCode) (s : State) : (raiseError code s).regs.height = s.regs.height := rfl
@[simp] theorem raiseError_regs_format (code : ErrorCode) (s : State) : (raiseError code s).regs.format = s.regs.format := rfl
@[simp] theorem raiseError_regs_quality (code : ErrorCode) (s : State) : (raiseError code s).regs.quality = s.regs.quality := rfl
@[simp] theorem raiseError_regs_method (code : ErrorCode) (s : State) : (raiseError code s).regs.method = s.regs.method := rfl
@[simp] theorem raiseError_regs_targetSize (code : ErrorCode) (s : State) : (raiseError code s).regs.targetSize = s.regs.targetSize := rfl
@[simp] theorem raiseError_regs_dstAddr (code : ErrorCode) (s : State) : (raiseError code s).regs.dstAddr = s.regs.dstAddr := rfl
@[simp] theorem raiseError_regs_dstCap (code : ErrorCode) (s : State) : (raiseError code s).regs.dstCap = s.regs.dstCap := rfl
@[simp] theorem raiseError_regs_outLen (code : ErrorCode) (s : State) : (raiseError code s).regs.outLen = s.regs.outLen := rfl
@[simp] theorem raiseError_regs_qUsed (code : ErrorCode) (s : State) : (raiseError code s).regs.qUsed = s.regs.qUsed := rfl
@[simp] theorem raiseError_regs_passes (code : ErrorCode) (s : State) : (raiseError code s).regs.passes = s.regs.passes := rfl
@[simp] theorem raiseError_regs_payloadLen (code : ErrorCode) (s : State) : (raiseError code s).regs.payloadLen = s.regs.payloadLen := rfl

@[simp] theorem acknowledge_mem (s : State) : (acknowledge s).mem = s.mem := rfl
@[simp] theorem acknowledge_inputs (s : State) : (acknowledge s).inputs = s.inputs := rfl
@[simp] theorem acknowledge_platform (s : State) : (acknowledge s).platform = s.platform := rfl
@[simp] theorem acknowledge_busData (s : State) : (acknowledge s).busData = s.busData := rfl
@[simp] theorem acknowledge_hostByte (s : State) : (acknowledge s).hostByte = s.hostByte := rfl
@[simp] theorem acknowledge_hostCache (s : State) : (acknowledge s).hostCache = s.hostCache := rfl
@[simp] theorem acknowledge_srcRace (s : State) : (acknowledge s).srcRace = s.srcRace := rfl
@[simp] theorem acknowledge_dstRace (s : State) : (acknowledge s).dstRace = s.dstRace := rfl
@[simp] theorem acknowledge_freeCount (s : State) : (acknowledge s).freeCount = s.freeCount := rfl
@[simp] theorem acknowledge_phase (s : State) : (acknowledge s).phase = s.phase := rfl
@[simp] theorem acknowledge_session (s : State) : (acknowledge s).session = s.session := rfl
@[simp] theorem acknowledge_regs_ctrl (s : State) : (acknowledge s).regs.ctrl = s.regs.ctrl := rfl
@[simp] theorem acknowledge_regs_status (s : State) : (acknowledge s).regs.status = statusCleared s.regs.status := rfl
@[simp] theorem acknowledge_regs_errCode (s : State) : (acknowledge s).regs.errCode = 0 := rfl
@[simp] theorem acknowledge_regs_srcAddr (s : State) : (acknowledge s).regs.srcAddr = s.regs.srcAddr := rfl
@[simp] theorem acknowledge_regs_srcLen (s : State) : (acknowledge s).regs.srcLen = s.regs.srcLen := rfl
@[simp] theorem acknowledge_regs_stride (s : State) : (acknowledge s).regs.stride = s.regs.stride := rfl
@[simp] theorem acknowledge_regs_width (s : State) : (acknowledge s).regs.width = s.regs.width := rfl
@[simp] theorem acknowledge_regs_height (s : State) : (acknowledge s).regs.height = s.regs.height := rfl
@[simp] theorem acknowledge_regs_format (s : State) : (acknowledge s).regs.format = s.regs.format := rfl
@[simp] theorem acknowledge_regs_quality (s : State) : (acknowledge s).regs.quality = s.regs.quality := rfl
@[simp] theorem acknowledge_regs_method (s : State) : (acknowledge s).regs.method = s.regs.method := rfl
@[simp] theorem acknowledge_regs_targetSize (s : State) : (acknowledge s).regs.targetSize = s.regs.targetSize := rfl
@[simp] theorem acknowledge_regs_dstAddr (s : State) : (acknowledge s).regs.dstAddr = s.regs.dstAddr := rfl
@[simp] theorem acknowledge_regs_dstCap (s : State) : (acknowledge s).regs.dstCap = s.regs.dstCap := rfl
@[simp] theorem acknowledge_regs_outLen (s : State) : (acknowledge s).regs.outLen = 0 := rfl
@[simp] theorem acknowledge_regs_qUsed (s : State) : (acknowledge s).regs.qUsed = 0 := rfl
@[simp] theorem acknowledge_regs_passes (s : State) : (acknowledge s).regs.passes = 0 := rfl
@[simp] theorem acknowledge_regs_payloadLen (s : State) : (acknowledge s).regs.payloadLen = 0 := rfl

@[simp] theorem complete_mem (best : PassResult) (s : State) : (complete best s).mem = s.mem := rfl
@[simp] theorem complete_inputs (best : PassResult) (s : State) : (complete best s).inputs = s.inputs := rfl
@[simp] theorem complete_platform (best : PassResult) (s : State) : (complete best s).platform = s.platform := rfl
@[simp] theorem complete_busData (best : PassResult) (s : State) : (complete best s).busData = s.busData := rfl
@[simp] theorem complete_hostByte (best : PassResult) (s : State) : (complete best s).hostByte = s.hostByte := rfl
@[simp] theorem complete_hostCache (best : PassResult) (s : State) : (complete best s).hostCache = s.hostCache := rfl
@[simp] theorem complete_srcRace (best : PassResult) (s : State) : (complete best s).srcRace = s.srcRace := rfl
@[simp] theorem complete_dstRace (best : PassResult) (s : State) : (complete best s).dstRace = s.dstRace := rfl
@[simp] theorem complete_freeCount (best : PassResult) (s : State) : (complete best s).freeCount = s.freeCount := rfl
@[simp] theorem complete_phase (best : PassResult) (s : State) : (complete best s).phase = .idle := rfl
@[simp] theorem complete_session (best : PassResult) (s : State) : (complete best s).session = s.session := rfl
@[simp] theorem complete_regs_ctrl (best : PassResult) (s : State) : (complete best s).regs.ctrl = s.regs.ctrl := rfl
@[simp] theorem complete_regs_status (best : PassResult) (s : State) : (complete best s).regs.status = statusCompleted s.regs.status := rfl
@[simp] theorem complete_regs_errCode (best : PassResult) (s : State) : (complete best s).regs.errCode = s.regs.errCode := rfl
@[simp] theorem complete_regs_srcAddr (best : PassResult) (s : State) : (complete best s).regs.srcAddr = s.regs.srcAddr := rfl
@[simp] theorem complete_regs_srcLen (best : PassResult) (s : State) : (complete best s).regs.srcLen = s.regs.srcLen := rfl
@[simp] theorem complete_regs_stride (best : PassResult) (s : State) : (complete best s).regs.stride = s.regs.stride := rfl
@[simp] theorem complete_regs_width (best : PassResult) (s : State) : (complete best s).regs.width = s.regs.width := rfl
@[simp] theorem complete_regs_height (best : PassResult) (s : State) : (complete best s).regs.height = s.regs.height := rfl
@[simp] theorem complete_regs_format (best : PassResult) (s : State) : (complete best s).regs.format = s.regs.format := rfl
@[simp] theorem complete_regs_quality (best : PassResult) (s : State) : (complete best s).regs.quality = s.regs.quality := rfl
@[simp] theorem complete_regs_method (best : PassResult) (s : State) : (complete best s).regs.method = s.regs.method := rfl
@[simp] theorem complete_regs_targetSize (best : PassResult) (s : State) : (complete best s).regs.targetSize = s.regs.targetSize := rfl
@[simp] theorem complete_regs_dstAddr (best : PassResult) (s : State) : (complete best s).regs.dstAddr = s.regs.dstAddr := rfl
@[simp] theorem complete_regs_dstCap (best : PassResult) (s : State) : (complete best s).regs.dstCap = s.regs.dstCap := rfl
@[simp] theorem complete_regs_outLen (best : PassResult) (s : State) : (complete best s).regs.outLen = BitVec.ofNat 32 best.size := rfl
@[simp] theorem complete_regs_qUsed (best : PassResult) (s : State) : (complete best s).regs.qUsed = BitVec.ofNat 32 best.q.val := rfl
@[simp] theorem complete_regs_passes (best : PassResult) (s : State) : (complete best s).regs.passes = BitVec.ofNat 32 s.session.k := rfl
@[simp] theorem complete_regs_payloadLen (best : PassResult) (s : State) : (complete best s).regs.payloadLen = BitVec.ofNat 32 best.payloadLen := rfl

@[simp] theorem resetBlock_mem (s : State) : (resetBlock s).mem = s.mem := rfl
@[simp] theorem resetBlock_inputs (s : State) : (resetBlock s).inputs = s.inputs := rfl
@[simp] theorem resetBlock_platform (s : State) : (resetBlock s).platform = s.platform := rfl
@[simp] theorem resetBlock_busData (s : State) : (resetBlock s).busData = s.busData := rfl
@[simp] theorem resetBlock_hostByte (s : State) : (resetBlock s).hostByte = s.hostByte := rfl
@[simp] theorem resetBlock_hostCache (s : State) : (resetBlock s).hostCache = s.hostCache := rfl
@[simp] theorem resetBlock_srcRace (s : State) : (resetBlock s).srcRace = s.srcRace := rfl
@[simp] theorem resetBlock_dstRace (s : State) : (resetBlock s).dstRace = s.dstRace := rfl
@[simp] theorem resetBlock_freeCount (s : State) : (resetBlock s).freeCount = s.freeCount := rfl
@[simp] theorem resetBlock_phase (s : State) : (resetBlock s).phase = .idle := rfl
@[simp] theorem resetBlock_session (s : State) : (resetBlock s).session = Session.unspecified := rfl
@[simp] theorem resetBlock_regs (s : State) : (resetBlock s).regs = Regs.reset := rfl

@[simp] theorem portStore_regs (a : Nat) (b : Byte) (s : State) : (portStore a b s).regs = s.regs := by
  unfold portStore; split <;> rfl
@[simp] theorem portStore_phase (a : Nat) (b : Byte) (s : State) : (portStore a b s).phase = s.phase := by
  unfold portStore; split <;> rfl
@[simp] theorem portStore_session (a : Nat) (b : Byte) (s : State) : (portStore a b s).session = s.session := by
  unfold portStore; split <;> rfl
@[simp] theorem portStore_platform (a : Nat) (b : Byte) (s : State) : (portStore a b s).platform = s.platform := by
  unfold portStore; split <;> rfl
@[simp] theorem portStore_inputs (a : Nat) (b : Byte) (s : State) : (portStore a b s).inputs = s.inputs := by
  unfold portStore; split <;> rfl
@[simp] theorem portStore_busData (a : Nat) (b : Byte) (s : State) : (portStore a b s).busData = s.busData := by
  unfold portStore; split <;> rfl
@[simp] theorem portStore_hostByte (a : Nat) (b : Byte) (s : State) : (portStore a b s).hostByte = s.hostByte := by
  unfold portStore; split <;> rfl
@[simp] theorem portStore_hostCache (a : Nat) (b : Byte) (s : State) : (portStore a b s).hostCache = s.hostCache := by
  unfold portStore; split <;> rfl
@[simp] theorem portStore_freeCount (a : Nat) (b : Byte) (s : State) : (portStore a b s).freeCount = s.freeCount := by
  unfold portStore; split <;> rfl
@[simp] theorem portStore_mem (a : Nat) (b : Byte) (s : State) : (portStore a b s).mem = writeByte s.mem a b := by
  unfold portStore; split <;> rfl

@[simp] theorem runPass_cfg (ses : Session) : (runPass ses).cfg = ses.cfg := rfl
@[simp] theorem runPass_ySrc (ses : Session) : (runPass ses).ySrc = ses.ySrc := rfl
@[simp] theorem runPass_uSrc (ses : Session) : (runPass ses).uSrc = ses.uSrc := rfl
@[simp] theorem runPass_vSrc (ses : Session) : (runPass ses).vSrc = ses.vSrc := rfl
@[simp] theorem runPass_k (ses : Session) : (runPass ses).k = ses.k := rfl
@[simp] theorem runPass_q (ses : Session) : (runPass ses).q = ses.q := rfl
@[simp] theorem runPass_lo (ses : Session) : (runPass ses).lo = ses.lo := rfl
@[simp] theorem runPass_hi (ses : Session) : (runPass ses).hi = ses.hi := rfl
@[simp] theorem runPass_mode (ses : Session) : (runPass ses).mode = ses.mode := rfl
@[simp] theorem runPass_best (ses : Session) : (runPass ses).best = ses.best := rfl

@[simp] theorem convertPlanes_cfg (s : State) (ses : Session) : (convertPlanes s ses).cfg = ses.cfg := rfl

@[simp] theorem rateInit_cfg (ses : Session) : (rateInit ses).cfg = ses.cfg := rfl
@[simp] theorem rateInit_ySrc (ses : Session) : (rateInit ses).ySrc = ses.ySrc := rfl
@[simp] theorem rateInit_uSrc (ses : Session) : (rateInit ses).uSrc = ses.uSrc := rfl
@[simp] theorem rateInit_vSrc (ses : Session) : (rateInit ses).vSrc = ses.vSrc := rfl
@[simp] theorem rateInit_k (ses : Session) : (rateInit ses).k = 0 := rfl
@[simp] theorem rateInit_best (ses : Session) : (rateInit ses).best = none := rfl
@[simp] theorem rateInit_q (ses : Session) : (rateInit ses).q = qualityIndex ses.cfg.quality := rfl
@[simp] theorem rateInit_lo (ses : Session) : (rateInit ses).lo = 0 := rfl
@[simp] theorem rateInit_hi (ses : Session) : (rateInit ses).hi = 127 := rfl

end Sys2Proof.Machine
end

