-- ==== Sys2Proof/Laws/Ops.lean ====
section
/-! SUPPORT. What each shared operation can do, said once. -/

namespace Sys2Proof.Machine

/-! The flags after each update. -/

@[simp] theorem acceptEncode_busy (cfg : EncConfig) (s : State) : (acceptEncode cfg s).busy = true := (statusAccepted_getLsbD s.regs.status busyBit).trans rfl
@[simp] theorem acceptEncode_done (cfg : EncConfig) (s : State) : (acceptEncode cfg s).done = false := (statusAccepted_getLsbD s.regs.status doneBit).trans rfl
@[simp] theorem acceptEncode_err (cfg : EncConfig) (s : State) : (acceptEncode cfg s).err = false := (statusAccepted_getLsbD s.regs.status errBit).trans rfl
@[simp] theorem acceptEncode_cmdDropped (cfg : EncConfig) (s : State) : (acceptEncode cfg s).cmdDropped = s.cmdDropped := (statusAccepted_getLsbD s.regs.status cmdDroppedBit).trans rfl
@[simp] theorem acceptEncode_badCmd (cfg : EncConfig) (s : State) : (acceptEncode cfg s).badCmd = s.badCmd := (statusAccepted_getLsbD s.regs.status badCmdBit).trans rfl

@[simp] theorem raiseError_busy (code : ErrorCode) (s : State) : (raiseError code s).busy = false := (statusErrored_getLsbD s.regs.status busyBit).trans rfl
@[simp] theorem raiseError_done (code : ErrorCode) (s : State) : (raiseError code s).done = false := (statusErrored_getLsbD s.regs.status doneBit).trans rfl
@[simp] theorem raiseError_err (code : ErrorCode) (s : State) : (raiseError code s).err = true := (statusErrored_getLsbD s.regs.status errBit).trans rfl
@[simp] theorem raiseError_cmdDropped (code : ErrorCode) (s : State) : (raiseError code s).cmdDropped = s.cmdDropped := (statusErrored_getLsbD s.regs.status cmdDroppedBit).trans rfl
@[simp] theorem raiseError_badCmd (code : ErrorCode) (s : State) : (raiseError code s).badCmd = s.badCmd := (statusErrored_getLsbD s.regs.status badCmdBit).trans rfl

@[simp] theorem complete_busy (best : PassResult) (s : State) : (complete best s).busy = false := (statusCompleted_getLsbD s.regs.status busyBit).trans rfl
@[simp] theorem complete_done (best : PassResult) (s : State) : (complete best s).done = true := (statusCompleted_getLsbD s.regs.status doneBit).trans rfl
@[simp] theorem complete_err (best : PassResult) (s : State) : (complete best s).err = s.err := (statusCompleted_getLsbD s.regs.status errBit).trans rfl
@[simp] theorem complete_cmdDropped (best : PassResult) (s : State) : (complete best s).cmdDropped = s.cmdDropped := (statusCompleted_getLsbD s.regs.status cmdDroppedBit).trans rfl
@[simp] theorem complete_badCmd (best : PassResult) (s : State) : (complete best s).badCmd = s.badCmd := (statusCompleted_getLsbD s.regs.status badCmdBit).trans rfl

@[simp] theorem acknowledge_busy (s : State) : (acknowledge s).busy = s.busy := (statusCleared_getLsbD s.regs.status busyBit).trans rfl
@[simp] theorem acknowledge_done (s : State) : (acknowledge s).done = false := (statusCleared_getLsbD s.regs.status doneBit).trans rfl
@[simp] theorem acknowledge_err (s : State) : (acknowledge s).err = false := (statusCleared_getLsbD s.regs.status errBit).trans rfl
@[simp] theorem acknowledge_cmdDropped (s : State) : (acknowledge s).cmdDropped = false := (statusCleared_getLsbD s.regs.status cmdDroppedBit).trans rfl
@[simp] theorem acknowledge_badCmd (s : State) : (acknowledge s).badCmd = false := (statusCleared_getLsbD s.regs.status badCmdBit).trans rfl

@[simp] theorem dropCommand_busy (s : State) : (dropCommand s).busy = s.busy := (getLsbD_setBit s.regs.status cmdDroppedBit (by decide) true busyBit).trans rfl
@[simp] theorem dropCommand_done (s : State) : (dropCommand s).done = s.done := (getLsbD_setBit s.regs.status cmdDroppedBit (by decide) true doneBit).trans rfl
@[simp] theorem dropCommand_err (s : State) : (dropCommand s).err = s.err := (getLsbD_setBit s.regs.status cmdDroppedBit (by decide) true errBit).trans rfl
@[simp] theorem dropCommand_cmdDropped (s : State) : (dropCommand s).cmdDropped = true := (getLsbD_setBit s.regs.status cmdDroppedBit (by decide) true cmdDroppedBit).trans rfl
@[simp] theorem dropCommand_badCmd (s : State) : (dropCommand s).badCmd = s.badCmd := (getLsbD_setBit s.regs.status cmdDroppedBit (by decide) true badCmdBit).trans rfl

@[simp] theorem flagBadCommand_busy (s : State) : (flagBadCommand s).busy = s.busy := (getLsbD_setBit s.regs.status badCmdBit (by decide) true busyBit).trans rfl
@[simp] theorem flagBadCommand_done (s : State) : (flagBadCommand s).done = s.done := (getLsbD_setBit s.regs.status badCmdBit (by decide) true doneBit).trans rfl
@[simp] theorem flagBadCommand_err (s : State) : (flagBadCommand s).err = s.err := (getLsbD_setBit s.regs.status badCmdBit (by decide) true errBit).trans rfl
@[simp] theorem flagBadCommand_cmdDropped (s : State) : (flagBadCommand s).cmdDropped = s.cmdDropped := (getLsbD_setBit s.regs.status badCmdBit (by decide) true cmdDroppedBit).trans rfl
@[simp] theorem flagBadCommand_badCmd (s : State) : (flagBadCommand s).badCmd = true := (getLsbD_setBit s.regs.status badCmdBit (by decide) true badCmdBit).trans rfl

@[simp] theorem portStore_busy (a : Nat) (b : Byte) (s : State) : (portStore a b s).busy = s.busy := by
  unfold State.busy; rw [portStore_regs]
@[simp] theorem portStore_done (a : Nat) (b : Byte) (s : State) : (portStore a b s).done = s.done := by
  unfold State.done; rw [portStore_regs]
@[simp] theorem portStore_err (a : Nat) (b : Byte) (s : State) : (portStore a b s).err = s.err := by
  unfold State.err; rw [portStore_regs]
@[simp] theorem portStore_cmdDropped (a : Nat) (b : Byte) (s : State) : (portStore a b s).cmdDropped = s.cmdDropped := by
  unfold State.cmdDropped; rw [portStore_regs]
@[simp] theorem portStore_badCmd (a : Nat) (b : Byte) (s : State) : (portStore a b s).badCmd = s.badCmd := by
  unfold State.badCmd; rw [portStore_regs]
@[simp] theorem portStore_irqEn (a : Nat) (b : Byte) (s : State) : (portStore a b s).irqEn = s.irqEn := by
  unfold State.irqEn; rw [portStore_regs]

/-- A non-NOP command is dropped or has its effect. -/
theorem unlessBusy_cases (f : State → State) (s : State) :
    (s.busy = true ∧ unlessBusy f s = dropCommand s) ∨ (s.busy = false ∧ unlessBusy f s = f s) := by
  unfold unlessBusy
  cases h : s.busy
  · exact .inr ⟨rfl, if_neg (by simp)⟩
  · exact .inl ⟨rfl, if_pos rfl⟩

/-- What a word written to CMD can do (R180). -/
theorem issueCommand_cases (w : Word) (s : State) :
    issueCommand w s = flagBadCommand s ∨ issueCommand w s = s ∨ issueCommand w s = dropCommand s ∨
    issueCommand w s = acknowledge s ∨ ∃ cfg, s.busy = false ∧ issueCommand w s = acceptEncode cfg s := by
  unfold issueCommand unlessBusy
  cases hb : s.busy <;> simp only [Bool.false_eq_true, if_true, if_false]
  · split
    · split
      · exact .inr (.inl rfl)
      · split
        · exact .inr (.inr (.inr (.inr ⟨_, trivial, rfl⟩)))
        · split
          · exact .inr (.inr (.inr (.inr ⟨_, trivial, rfl⟩)))
          · exact .inr (.inr (.inr (.inl rfl)))
    · exact .inl rfl
  · split
    · split
      · exact .inr (.inl rfl)
      · split
        · exact .inr (.inr (.inl rfl))
        · split
          · exact .inr (.inr (.inl rfl))
          · exact .inr (.inr (.inl rfl))
    · exact .inl rfl

/-- A register write keeps STATUS, ERR_CODE and the result registers (R41, R46 to R51). -/
theorem writeReg_readOnly (r : RegName) (d : Word) (g : Regs) :
    (writeReg r d g).status = g.status ∧ (writeReg r d g).errCode = g.errCode ∧ (writeReg r d g).outLen = g.outLen ∧
    (writeReg r d g).qUsed = g.qUsed ∧ (writeReg r d g).passes = g.passes ∧ (writeReg r d g).payloadLen = g.payloadLen := by
  cases r <;> exact ⟨rfl, rfl, rfl, rfl, rfl, rfl⟩

/-- A write at an offset keeps what a register write keeps. -/
theorem writeOffset_readOnly (o : Offset) (d : Word) (g : Regs) :
    (writeOffset o d g).status = g.status ∧ (writeOffset o d g).errCode = g.errCode ∧ (writeOffset o d g).outLen = g.outLen ∧
    (writeOffset o d g).qUsed = g.qUsed ∧ (writeOffset o d g).passes = g.passes ∧ (writeOffset o d g).payloadLen = g.payloadLen := by
  unfold writeOffset
  split
  · exact writeReg_readOnly _ d g
  · exact ⟨rfl, rfl, rfl, rfl, rfl, rfl⟩

/-- CTRL after a write at an offset: what it held, or the one defined bit of the data (R44). -/
theorem writeOffset_ctrl (o : Offset) (d : Word) (g : Regs) :
    (writeOffset o d g).ctrl = g.ctrl ∨ (writeOffset o d g).ctrl = ctrlStored d := by
  unfold writeOffset
  split
  · next r _ => cases r <;> first | exact .inl rfl | exact .inr rfl
  · exact .inl rfl

/-- What an instruction does when it answers a next state. -/
theorem exec_cases {i : Instr} {s t : State} (h : exec i s = .next t) :
    t = s ∨ t = dropCommand s ∨ t = flagBadCommand s ∨ t = acknowledge s ∨ (∃ cfg, s.busy = false ∧ t = acceptEncode cfg s) ∨
    (∃ o, t = { s with busData := readOffset o s.regs }) ∨ (∃ o d, t = { s with regs := writeOffset o d s.regs }) := by
  cases i with
  | nop => cases h; exact .inl rfl
  | encode =>
    cases h
    rcases unlessBusy_cases (fun s => acceptEncode (snapshotEncode s.regs) s) s with ⟨_, e⟩ | ⟨hb, e⟩
    · exact .inr (.inl e)
    · exact .inr (.inr (.inr (.inr (.inl ⟨_, hb, e⟩))))
  | encodeSimple =>
    cases h
    rcases unlessBusy_cases (fun s => acceptEncode (snapshotSimple s.regs) s) s with ⟨_, e⟩ | ⟨hb, e⟩
    · exact .inr (.inl e)
    · exact .inr (.inr (.inr (.inr (.inl ⟨_, hb, e⟩))))
  | clear =>
    cases h
    rcases unlessBusy_cases acknowledge s with ⟨_, e⟩ | ⟨_, e⟩
    · exact .inr (.inl e)
    · exact .inr (.inr (.inr (.inl e)))
  | rd o =>
    simp only [exec, execRd] at h
    split at h
    · cases h; exact .inr (.inr (.inr (.inr (.inr (.inl ⟨o, rfl⟩)))))
    · cases h
  | wr o d =>
    simp only [exec, execWr] at h
    split at h
    · split at h
      · cases h
        rcases issueCommand_cases d s with e | e | e | e | ⟨cfg, hb, e⟩
        · exact .inr (.inr (.inl e))
        · exact .inl e
        · exact .inr (.inl e)
        · exact .inr (.inr (.inr (.inl e)))
        · exact .inr (.inr (.inr (.inr (.inl ⟨cfg, hb, e⟩))))
      · cases h; exact .inr (.inr (.inr (.inr (.inr (.inr ⟨o, d, rfl⟩)))))
    · cases h

/-- A bus access that answers a next state carried an instruction that did. -/
theorem busStep_cases {a : BusAccess} {s t : State} (h : busStep a s = .next t) :
    ∃ i, decode a = .instr i ∧ exec i s = .next t := by
  unfold busStep at h
  split at h
  · next i hi => exact ⟨i, hi, h⟩
  · cases h

/-- A host access of its own memory that answers a next state had its effect on ordinary memory. -/
theorem onRam_cases {a : Word} {f : State → State} {s t : State} (h : onRam a f s = .next t) :
    inRegisterWindow s.platform a = false ∧ regionKind s.platform a = .ram ∧ t = f s := by
  unfold onRam at h
  split at h
  · cases h
  · next hw =>
    split at h
    · next hr => cases h; exact ⟨by simpa using hw, hr, rfl⟩
    · cases h
    · cases h

/-- The spec of error entry (R470): the code, the flags, IDLE, nothing of memory. -/
theorem raiseError_spec (code : ErrorCode) (s : State) :
    (raiseError code s).busy = false ∧ (raiseError code s).done = false ∧ (raiseError code s).err = true ∧
    (raiseError code s).phase = .idle ∧ (raiseError code s).regs.errCode = errorNumber code ∧ (raiseError code s).mem = s.mem :=
  ⟨raiseError_busy code s, raiseError_done code s, raiseError_err code s, rfl, rfl, rfl⟩

/-- The spec of completion (R197). -/
theorem complete_spec (best : PassResult) (s : State) :
    (complete best s).busy = false ∧ (complete best s).done = true ∧ (complete best s).err = s.err ∧
    (complete best s).phase = .idle ∧ (complete best s).mem = s.mem :=
  ⟨complete_busy best s, complete_done best s, complete_err best s, rfl, rfl⟩

/-- The spec of acceptance (R183). -/
theorem acceptEncode_spec (cfg : EncConfig) (s : State) :
    (acceptEncode cfg s).busy = true ∧ (acceptEncode cfg s).done = false ∧ (acceptEncode cfg s).err = false ∧
    (acceptEncode cfg s).cmdDropped = s.cmdDropped ∧ (acceptEncode cfg s).badCmd = s.badCmd ∧
    (acceptEncode cfg s).phase = .check ∧ (acceptEncode cfg s).session.cfg = cfg ∧ (acceptEncode cfg s).mem = s.mem ∧
    (acceptEncode cfg s).srcRace = [] ∧ (acceptEncode cfg s).dstRace = [] :=
  ⟨acceptEncode_busy cfg s, acceptEncode_done cfg s, acceptEncode_err cfg s, acceptEncode_cmdDropped cfg s,
    acceptEncode_badCmd cfg s, rfl, rfl, rfl, rfl, rfl⟩

/-- The register window as a range of distances from its base (R100). -/
theorem inRegisterWindow_iff (p : Platform) (a : Word) : inRegisterWindow p a = true ↔ (a - p.regBase).toNat < 4096 := by
  unfold inRegisterWindow; exact decide_eq_true_iff

/-- A region meets the register window exactly when one of its bytes lies in it (R113). -/
theorem meetsWindow_iff (p : Platform) (start : Word) (len : Nat) (hl : len < 2 ^ 32) :
    meetsWindow p start len = true ↔ ∃ i < len, inRegisterWindow p (addrPlus start i) = true := by
  have dist : ∀ i, addrPlus start i - p.regBase = BitVec.ofNat 32 i - (p.regBase - start) := by
    intro i
    unfold addrPlus
    rw [BitVec.sub_eq_add_neg, BitVec.sub_eq_add_neg (BitVec.ofNat 32 i), BitVec.neg_sub]
    ac_rfl
  have zero : start - p.regBase = BitVec.ofNat 32 0 - (p.regBase - start) := by
    rw [← dist 0]; simp [addrPlus]
  unfold meetsWindow
  rw [Bool.and_eq_true, Bool.or_eq_true, decide_eq_true_iff, decide_eq_true_iff]
  simp only [inRegisterWindow_iff, dist, zero]
  generalize p.regBase - start = d
  have hd := d.isLt
  have small : ∀ i, i < 2 ^ 32 → (BitVec.ofNat 32 i - d).toNat = (2 ^ 32 - d.toNat + i) % 2 ^ 32 := by
    intro i hi
    rw [BitVec.toNat_sub, BitVec.toNat_ofNat, Nat.mod_eq_of_lt hi]
  constructor
  · rintro ⟨h0, h | h⟩
    · refine ⟨d.toNat, h, ?_⟩
      rw [small _ (by omega)]; omega
    · exact ⟨0, h0, h⟩
  · rintro ⟨i, hi, h⟩
    refine ⟨by omega, ?_⟩
    rw [small i (by omega)] at h
    rw [small 0 (by omega)]
    omega

end Sys2Proof.Machine
end

