-- ==== Sys2Proof/Laws/Step.lean ====
section
/-! SUPPORT. What each transition of the block, each host access and each step can do, said once. -/

namespace Sys2Proof.Machine

/-- What CHECK can do (R190). -/
theorem stepCheck_cases {s t : State} (h : stepCheck s = .next t) :
    (∃ code, checkConfig s.session.cfg = some code ∧ t = raiseError code s) ∨
    (checkConfig s.session.cfg = none ∧ unsupportedRegion s.platform s.session.cfg = none ∧ t = { s with phase := .convert }) := by
  unfold stepCheck at h
  split at h
  · next code hc => cases h; exact .inl ⟨code, hc, rfl⟩
  · next hc =>
    split at h
    · cases h
    · next hu => cases h; exact .inr ⟨hc, hu, rfl⟩

/-- What CONVERT can do (R191, R110). -/
theorem stepConvert_cases {s t : State} (h : stepConvert s = .next t) :
    (admitted s.platform (sourceRegion s.session.cfg) = true ∧
      t = { s with session := rateInit (convertPlanes s s.session), phase := .pass, freeCount := s.freeCount + 1 }) ∨
    (admitted s.platform (sourceRegion s.session.cfg) = false ∧ t = s) := by
  unfold stepConvert at h
  split at h
  · next ha => cases h; exact .inl ⟨ha, rfl⟩
  · next ha => cases h; exact .inr ⟨by simpa using ha, rfl⟩

/-- What one pass can do (R192). -/
theorem stepPass_cases {s t : State} (h : stepPass s = .next t) :
    (payloadTooLarge (runPass s.session) = true ∧ t = raiseError .payloadTooLarge s) ∨
    (payloadTooLarge (runPass s.session) = false ∧
      t = { s with
        session := (rateStep (runPass s.session) (runPass s.session).result).1
        phase := phaseAfter (rateStep (runPass s.session) (runPass s.session).result).2 }) := by
  simp only [stepPass] at h
  split at h
  · next hp => cases h; exact .inl ⟨hp, rfl⟩
  · next hp => cases h; exact .inr ⟨by simpa using hp, rfl⟩

/-- What WRITE can do (R193, R440, R110). -/
theorem stepWrite_cases {s t : State} (h : stepWrite s = .next t) :
    ∃ best, s.session.best = some best ∧
      ((s.session.cfg.dstCap.toNat < best.size ∧ t = raiseError .encodingOverflow s) ∨
       (best.size ≤ s.session.cfg.dstCap.toNat ∧
         (t = complete best { s with mem := writeCells s.mem (writtenCells s best.file), freeCount := s.freeCount + 1 } ∨ t = s))) := by
  unfold stepWrite at h
  split at h
  · cases h
  · next best hb =>
    refine ⟨best, hb, ?_⟩
    split at h
    · next hlt => cases h; exact .inl ⟨hlt, rfl⟩
    · next hlt =>
      refine .inr ⟨by omega, ?_⟩
      simp only at h
      split at h
      · cases h; exact .inl rfl
      · cases h; exact .inr rfl

/-- What the block can do (R194). -/
theorem stepBlock_cases {s t : State} (h : stepBlock s = .next t) :
    (s.phase = .idle ∧ t = s) ∨ (s.phase = .check ∧ stepCheck s = .next t) ∨ (s.phase = .convert ∧ stepConvert s = .next t) ∨
    (s.phase = .pass ∧ stepPass s = .next t) ∨ (s.phase = .write ∧ stepWrite s = .next t) := by
  unfold stepBlock at h
  split at h <;> simp_all

/-- What a step can do (R194): the block moves, the host runs an instruction, the reset input, or a host access of its memory. -/
theorem step_cases {s t : State} (h : step s = .next t) :
    (s.inputs = [] ∧ stepBlock s = .next t) ∨
    ∃ rest, (s.inputs = .block :: rest ∧ stepBlock { s with inputs := rest } = .next t) ∨
      (∃ a i, s.inputs = .bus a :: rest ∧ decode a = .instr i ∧ exec i { s with inputs := rest } = .next t) ∨
      (s.inputs = .reset :: rest ∧ t = resetBlock { s with inputs := rest }) ∨
      (∃ a b, s.inputs = .hostStore a b :: rest ∧ t = storeEffect a.toNat b { s with inputs := rest }) ∨
      (∃ a, s.inputs = .hostLoad a :: rest ∧ t = loadEffect a.toNat { s with inputs := rest }) ∨
      (∃ a, s.inputs = .cacheClean a :: rest ∧ t = cleanEffect a.toNat { s with inputs := rest }) ∨
      (∃ a, s.inputs = .cacheInvalidate a :: rest ∧ t = invalidateEffect a.toNat { s with inputs := rest }) := by
  unfold step at h
  split at h
  · next e => exact .inl ⟨e, h⟩
  · next a rest e =>
    obtain ⟨i, hd, hx⟩ := busStep_cases h
    exact .inr ⟨rest, .inr (.inl ⟨a, i, e, hd, hx⟩)⟩
  · next rest e => exact .inr ⟨rest, .inl ⟨e, h⟩⟩
  · next rest e => cases h; exact .inr ⟨rest, .inr (.inr (.inl ⟨e, rfl⟩))⟩
  · next a b rest e => exact .inr ⟨rest, .inr (.inr (.inr (.inl ⟨a, b, e, (onRam_cases h).2.2⟩)))⟩
  · next a rest e => exact .inr ⟨rest, .inr (.inr (.inr (.inr (.inl ⟨a, e, (onRam_cases h).2.2⟩))))⟩
  · next a rest e => exact .inr ⟨rest, .inr (.inr (.inr (.inr (.inr (.inl ⟨a, e, (onRam_cases h).2.2⟩)))))⟩
  · next a rest e => exact .inr ⟨rest, .inr (.inr (.inr (.inr (.inr (.inr ⟨a, e, (onRam_cases h).2.2⟩)))))⟩

/-- With no input pending the block moves (R194). -/
theorem step_of_no_input {s : State} (h : s.inputs = []) : step s = stepBlock s := by
  unfold step
  split <;> simp_all

/-- A host store changes nothing of the block (R117). -/
theorem storeEffect_block (a : Nat) (b : Byte) (s : State) :
    (storeEffect a b s).regs = s.regs ∧ (storeEffect a b s).phase = s.phase ∧ (storeEffect a b s).session = s.session := by
  unfold storeEffect
  split
  · exact ⟨portStore_regs a b s, portStore_phase a b s, portStore_session a b s⟩
  · exact ⟨rfl, rfl, rfl⟩

/-- A host load changes nothing of the block and no byte of memory. -/
theorem loadEffect_block (a : Nat) (s : State) :
    (loadEffect a s).regs = s.regs ∧ (loadEffect a s).phase = s.phase ∧ (loadEffect a s).session = s.session ∧
    (loadEffect a s).mem = s.mem := by
  unfold loadEffect
  split
  · exact ⟨rfl, rfl, rfl, rfl⟩
  · split <;> exact ⟨rfl, rfl, rfl, rfl⟩

/-- Cleaning changes nothing of the block. -/
theorem cleanEffect_block (a : Nat) (s : State) :
    (cleanEffect a s).regs = s.regs ∧ (cleanEffect a s).phase = s.phase ∧ (cleanEffect a s).session = s.session := by
  unfold cleanEffect
  split
  · split
    · exact ⟨portStore_regs _ _ _, portStore_phase _ _ _, portStore_session _ _ _⟩
    · exact ⟨rfl, rfl, rfl⟩
  · exact ⟨rfl, rfl, rfl⟩

/-- The step after a pass keeps the snapshot and the planes (R400). -/
theorem rateStep_keeps (ses : Session) (r : PassResult) :
    (rateStep ses r).1.cfg = ses.cfg ∧ (rateStep ses r).1.ySrc = ses.ySrc ∧ (rateStep ses r).1.uSrc = ses.uSrc ∧
    (rateStep ses r).1.vSrc = ses.vSrc ∧ (rateStep ses r).1.k = ses.k + 1 ∧
    (rateStep ses r).1.best = some (closest ses.mode ses.cfg.target.toNat ses.best r) := by
  simp only [rateStep]
  split
  · exact ⟨rfl, rfl, rfl, rfl, rfl, rfl⟩
  · split <;> exact ⟨rfl, rfl, rfl, rfl, rfl, rfl⟩

/-- The kept result is the old one or the new one (R408). -/
theorem closest_cases (mode : RateMode) (target : Nat) (best : Option PassResult) (r : PassResult) :
    closest mode target best r = r ∨ best = some (closest mode target best r) := by
  unfold closest
  split
  · exact .inl rfl
  · exact .inl rfl
  · split
    · exact .inl rfl
    · exact .inr rfl

/-! Runs of the machine. -/

/-- A run of no steps. -/
theorem run_zero (s : State) : Host.Core.run core 0 s = .next s := rfl

/-- A run whose first step answers a next state. -/
theorem run_succ {s t : State} (n : Nat) (h : step s = .next t) : Host.Core.run core (n + 1) s = Host.Core.run core n t := by
  have e : core.step s = .next t := h
  simp only [Host.Core.run, e]

/-- A run of at least one step that answers a next state begins with a step that does. -/
theorem run_cases {s u : State} {n : Nat} (h : Host.Core.run core (n + 1) s = .next u) :
    ∃ t, step s = .next t ∧ Host.Core.run core n t = .next u := by
  have e : step s = core.step s := rfl
  simp only [Host.Core.run] at h
  split at h
  · next t ht => exact ⟨t, e.trans ht, h⟩
  · cases h
  · cases h

/-- A run from a state that steps to itself stays there. -/
theorem run_of_fixed {s : State} (h : step s = .next s) (n : Nat) : Host.Core.run core n s = .next s := by
  induction n with
  | zero => rfl
  | succ n ih => rw [run_succ n h, ih]

end Sys2Proof.Machine
end

