-- ==== Sys2Proof/Laws/Coder.lean ====
section
/-! SUPPORT. How many bytes the boolean encoder and the first partition can have, so that a pass over a small frame is never too large. -/

namespace Sys2Proof.Machine

@[simp] theorem addOneRev_length (bs : List Byte) : (addOneRev bs).length = bs.length := by
  induction bs with
  | nil => rfl
  | cons b bs ih =>
    unfold addOneRev
    split
    · simp [ih]
    · simp

@[simp] theorem addOne_length (out : List Byte) : (addOne out).length = out.length := by simp [addOne]

/-- A turn of the loop moves at most one byte. -/
theorem shiftOnce_length (e : BoolEnc) : (shiftOnce e).out.length ≤ e.out.length + 1 := by
  unfold shiftOnce
  simp only
  split <;> split <;> simp

/-- `n` turns move at most `n` bytes. -/
theorem normalise_length (n : Nat) (e : BoolEnc) : (normalise n e).out.length ≤ e.out.length + n := by
  induction n generalizing e with
  | zero => exact le_refl _
  | succ n ih =>
    unfold normalise
    split
    · have := ih (shiftOnce e); have := shiftOnce_length e; omega
    · omega

/-- One boolean moves at most seven bytes. -/
theorem putBool_length (e : BoolEnc) (p : Nat) (bit : Bool) : (putBool e p bit).out.length ≤ e.out.length + 7 := by
  unfold putBool
  refine (normalise_length 7 _).trans ?_
  cases bit <;> simp

/-- A sequence of booleans moves at most seven bytes each. -/
theorem putAll_length (bs : List (Nat × Bool)) (e : BoolEnc) : (putAll e bs).out.length ≤ e.out.length + 7 * bs.length := by
  induction bs generalizing e with
  | nil => simp [putAll]
  | cons b bs ih =>
    have h := ih (putBool e b.1 b.2)
    have := putBool_length e b.1 b.2
    rw [List.length_cons]
    have he : putAll e (b :: bs) = putAll (putBool e b.1 b.2) bs := rfl
    rw [he]; omega

@[simp] theorem flushBytes_length (e : BoolEnc) : (flushBytes e).length = e.out.length + 4 := by
  unfold flushBytes
  simp only
  split <;> simp

@[simp] theorem litBools_length (v n : Nat) : (litBools v n).length = n := by simp [litBools]

/-- The token probability updates take at most nine booleans an entry (R372). -/
theorem updateBools_length (counts : List NodeCount) : (updateBools counts).length ≤ 9 * 1056 := by
  unfold updateBools
  rw [List.length_flatMap]
  refine (List.sum_le_card_nsmul _ 9 ?_).trans (by simp [nodeTotal])
  intro x hx
  obtain ⟨i, _, rfl⟩ := List.mem_map.mp hx
  split <;> simp

/-- The mode booleans of a macroblock are four (R388). -/
theorem modeBools_length (m : MbRecord) : (modeBools m).length = 4 := by
  unfold modeBools
  cases m.ymode <;> cases m.uvmode <;> rfl

/-- The first partition codes at most 9534 booleans and four a macroblock (R380). -/
theorem firstPartition_length (q : QIndex) (counts : List NodeCount) (mbs : List MbRecord) :
    (firstPartitionBools q counts mbs).length ≤ 9534 + 4 * mbs.length := by
  have h := updateBools_length counts
  have hm : (mbs.flatMap modeBools).length = 4 * mbs.length := by
    induction mbs with
    | nil => rfl
    | cons m ms ih => simp [modeBools_length, ih]; omega
  simp only [firstPartitionBools, headerBools, List.length_append, litBools_length]
  omega

/-- The bytes of a partition of `n` booleans. -/
theorem flushed_length {bs : List (Nat × Bool)} {n : Nat} (h : bs.length ≤ n) :
    (flushEnc (putAll BoolEnc.init bs)).out.length ≤ 7 * n + 4 := by
  have h1 := putAll_length bs BoolEnc.init
  have h0 : BoolEnc.init.out.length = 0 := rfl
  have h2 : (flushEnc (putAll BoolEnc.init bs)).out.length = (putAll BoolEnc.init bs).out.length + 4 := flushBytes_length _
  omega

/-- The bytes of the two partitions of a small frame. -/
theorem codeFrame_length (mbw : Nat) (q : QIndex) (mbs : List MbRecord) (hm : mbs.length ≤ 16)
    (ht : (walkFrame mbw mbs).1.length ≤ 1000) :
    (codeFrame mbw q mbs).e1.out.length ≤ 7 * 9598 + 4 ∧ (codeFrame mbw q mbs).e2.out.length ≤ 7 * 1000 + 4 := by
  simp only [codeFrame]
  refine ⟨flushed_length ((firstPartition_length q _ mbs).trans (by omega)), flushed_length ?_⟩
  rw [List.length_map]
  exact ht

/-- A pass over a frame of few macroblocks and tokens fits the frame tag and the RIFF size field (R464), in a small file. -/
theorem small_pass_fits (ses : Session) (hm : (analyseFrame ses.cfg ses.q ses.source).2.length ≤ 16)
    (ht : (walkFrame ses.cfg.mbw (analyseFrame ses.cfg ses.q ses.source).2).1.length ≤ 1000) :
    payloadTooLarge (runPass ses) = false ∧ (runPass ses).result.size ≤ 75000 := by
  have h : (runPass ses).e1.out.length ≤ 7 * 9598 + 4 ∧ (runPass ses).e2.out.length ≤ 7 * 1000 + 4 := by
    simp only [runPass]
    exact codeFrame_length _ _ _ hm ht
  obtain ⟨h1, h2⟩ := h
  generalize runPass ses = r at h1 h2 ⊢
  have h3 : r.payload.length ≤ 74300 := by
    simp only [Session.payload, payloadOf, frameHeader, leBytes, List.length_append, List.length_map, List.length_range, List.length_cons,
      List.length_nil]
    omega
  have h4 : riffSize r.payload.length ≤ 74400 := by
    unfold riffSize padOf
    split
    · rw [List.length_singleton]; omega
    · rw [List.length_nil]; omega
  have a1 : ¬2 ^ 19 ≤ r.e1.out.length := fun h => absurd (h.trans h1) (by norm_num)
  have a2 : ¬0xFFFFFFFF < riffSize r.payload.length := fun h => absurd (h.trans_le h4) (by norm_num)
  refine ⟨Bool.or_eq_false_iff.mpr ⟨decide_eq_false a1, decide_eq_false a2⟩, ?_⟩
  have h5 : ∀ p : List Byte, (webpFile p).length = 8 + riffSize p.length := by
    intro p
    simp only [webpFile, riffSize, leBytes, riffCode, webpCode, vp8Code, List.length_append, List.length_map, List.length_range,
      List.length_cons, List.length_nil]
    omega
  exact (h5 _).le.trans (by omega)

end Sys2Proof.Machine
end

