-- ==== Sys2Proof/Laws/PerInstr.lean ====
section
/-! SUPPORT. Statements about every instruction, one lemma a constructor. -/

namespace Sys2Proof.Laws.EncodesWordAccess

/-- A well-formed instruction is carried by one 32-bit access at an offset that is a multiple of 4 (30_encoding.md R140, 20_memory.md R106). -/
def Statement (i : Instr) : Prop :=
  i.WellFormed →
    (∃ o, encode i = .read o 4 ∧ o.toNat % 4 = 0) ∨ (∃ o bytes, encode i = .write o bytes ∧ bytes.length = 4 ∧ o.toNat % 4 = 0)

theorem wordBytes_length (w : Word) : (wordBytes w).length = 4 := rfl

theorem nop : Statement .nop := fun _ => .inr ⟨_, _, rfl, rfl, rfl⟩

theorem encode : Statement .encode := fun _ => .inr ⟨_, _, rfl, rfl, rfl⟩

theorem encodeSimple : Statement .encodeSimple := fun _ => .inr ⟨_, _, rfl, rfl, rfl⟩

theorem clear : Statement .clear := fun _ => .inr ⟨_, _, rfl, rfl, rfl⟩

theorem rd (offset : Offset) : Statement (.rd offset) := fun h =>
  .inl ⟨offset, rfl, by simpa [Instr.WellFormed, Instr.wellFormed, Machine.alignedOffset] using h⟩

theorem wr (offset : Offset) (data : Word) : Statement (.wr offset data) := fun h =>
  .inr ⟨offset, _, rfl, rfl, by
    simp only [Instr.WellFormed, Instr.wellFormed, Machine.alignedOffset, Bool.and_eq_true, beq_iff_eq] at h
    exact h.1⟩

end Sys2Proof.Laws.EncodesWordAccess
end

