-- ==== Sys2Proof/Machine/HostSyntax.lean ====
section
/-! DEFINITION. The straight-line pseudo-instructions of the host syntax (30_encoding.md R148) as lists of instructions. -/

namespace Sys2Proof.Machine

/-- A register's offset (R141). -/
def offsetOf (r : RegName) : Offset := ((registerMap.find? fun e => e.1 == r).map (·.2)).getD 0

/-- `WR <REG>, <value>` (R147). -/
def wrReg (r : RegName) (d : Word) : Instr := .wr (offsetOf r) d

/-- `RD <REG>` (R147). -/
def rdReg (r : RegName) : Instr := .rd (offsetOf r)

/-- One turn of `WAIT_IDLE`'s loop: the poll of STATUS. Whether the host polls again is its own branch (R147, R148). -/
def pollOnce : List Instr := [rdReg .status]

/-- `ENCODE_B` up to its WAIT_IDLE (R148). -/
def encodeB (src len w h qual dst cap : Word) : List Instr :=
  [wrReg .srcAddr src, wrReg .srcLen len, wrReg .width w, wrReg .height h, wrReg .quality qual, wrReg .dstAddr dst, wrReg .dstCap cap,
   .encodeSimple]

/-- `ENCODE_CFG` up to its WAIT_IDLE (R148). -/
def encodeCfg : List Instr := [.encode]

end Sys2Proof.Machine
end

