-- ==== Sys2Proof/Tests/Slice0.lean ====
section
/-! SUPPORT. Tests against the spec's own vectors (95_test_vectors.md), and for each statement with hypotheses a state that meets them. -/

namespace Sys2Proof.Tests

open Sys2Proof.Machine

-- One theorem after another: many kernel evaluations side by side want more threads than the check's memory limit allows.
set_option Elab.async false

/-- The next state of an outcome. -/
def after (o : Host.Outcome State Fault Refusal) : Option State :=
  match o with
  | .next s => some s
  | .fault _ => none
  | .refused _ => none

/-- What RD at an offset answers. -/
def readAt (o : Offset) (s : State) : Option Word := (after (exec (.rd o) s)).map (·.busData)

/-- The state after an instruction. -/
def run1 (i : Instr) (s : State) : State := (after (exec i s)).getD State.reset

/-! Well-formedness: a term each check refuses. -/

theorem test_wf_refuses_misaligned_read : Instr.wellFormed (.rd 0x002) = false := by decide
theorem test_wf_refuses_misaligned_write : Instr.wellFormed (.wr 0x021 5) = false := by decide
theorem test_wf_refuses_command_as_write : Instr.wellFormed (.wr 0x008 0x00000002) = false := by decide
theorem test_wf_takes_reserved_word : Instr.wellFormed (.wr 0x008 0x00000103) = true := by decide

/-! Decoding: the words of 30_encoding.md R143 and the accesses of R140, written out. -/

theorem test_decode_nop : decode (.write 0b000000001000 [0b00000000, 0b00000000, 0b00000000, 0b00000000]) = .instr .nop := by decide
theorem test_decode_encode : decode (.write 0b000000001000 [0b00000001, 0b00000000, 0b00000000, 0b00000000]) = .instr .encode := by decide
theorem test_decode_encode_simple :
    decode (.write 0b000000001000 [0b00000010, 0b00000000, 0b00000000, 0b00000000]) = .instr .encodeSimple := by decide
theorem test_decode_clear : decode (.write 0b000000001000 [0b00000011, 0b00000000, 0b00000000, 0b00000000]) = .instr .clear := by decide
theorem test_decode_rd : decode (.read 0b000001001100 4) = .instr (.rd 0x04C) := by decide
theorem test_decode_wr :
    decode (.write 0b000000101100 [0b01100100, 0b00000000, 0b00000000, 0b10000000]) = .instr (.wr 0x02C 0x80000064) := by decide
theorem test_decode_rejects :
    decode (.read 0x00C 2) = .rejected .notWordAccess ∧ decode (.read 0x00E 4) = .rejected .misalignedAccess ∧
    decode (.write 0x008 [1]) = .rejected .notWordAccess ∧ decode (.write 0x009 [1, 0, 0, 0]) = .rejected .misalignedAccess := by decide
theorem test_table_words :
    decodeTableWord 32 0 = some .nop ∧ decodeTableWord 32 1 = some .encode ∧ decodeTableWord 32 2 = some .encodeSimple ∧
    decodeTableWord 32 3 = some .clear ∧ decodeTableWord 32 4 = some (.wr 0x008 4) ∧ decodeTableWord 16 0x020 = some (.rd 0x020) ∧
    decodeTableWord 16 0x1020 = some (.wr 0x020 0) ∧ decodeTableWord 16 0x022 = none := by decide
/-- The step after `withFetchWord` runs the instruction. -/
theorem test_fetch_words :
    after (step (State.reset.withFetchWord 32 1)) = after (exec .encode State.reset) ∧
    after (step (State.reset.withFetchWord 16 0x030)) = after (exec (.rd 0x030) State.reset) := by decide
/-- The pseudo-instruction of R148 on the operands of program P4 ends with the word 2 at CMD. -/
theorem test_encodeB_accesses :
    (encodeB 0x2000 4 1 1 100 0x3000 64).map encode =
      [.write 0x14 [0x00, 0x20, 0, 0], .write 0x18 [4, 0, 0, 0], .write 0x20 [1, 0, 0, 0], .write 0x24 [1, 0, 0, 0],
       .write 0x2C [100, 0, 0, 0], .write 0x38 [0x00, 0x30, 0, 0], .write 0x3C [64, 0, 0, 0], .write 0x08 [2, 0, 0, 0]] := by decide

/-! Register access and commands: vectors V-A and V-C, from reset. -/

theorem test_rd_id_and_method : readAt 0x00 State.reset = some 0x56503845 ∧ readAt 0x30 State.reset = some 4 := by decide
theorem test_rd_unmapped_and_results :
    [0x08, 0x0C, 0x10, 0x40, 0x44, 0x48, 0x4C, 0x50, 0xFFC].map (readAt · State.reset) = List.replicate 9 (some 0) := by decide
theorem test_wr_stores_and_ignores :
    readAt 0x04 (run1 (.wr 0x04 0xFFFFFFFF) State.reset) = some 1 ∧ readAt 0x0C (run1 (.wr 0x0C 0xFFFFFFFF) State.reset) = some 0 ∧
    readAt 0x20 (run1 (.wr 0x20 0xFFFFFFFF) State.reset) = some 0xFFFFFFFF := by decide
theorem test_nop_changes_nothing : after (exec .nop State.reset) = some State.reset := by decide
theorem test_clear_after_badcmd : (run1 .clear (run1 (.wr 0x08 4) State.reset)).regs.status = 0 := by decide

/-- A state with an encode running. -/
def busyState : State := run1 .encode State.reset

theorem test_clear_dropped_while_busy : (run1 .clear busyState).regs.status = 0x09 := by decide
theorem test_wr_reserved_words_set_badcmd :
    [0x00000004, 0x00000103, 0x80000001].map (fun w => (run1 (.wr 0x08 w) State.reset).regs.status) = List.replicate 3 0x10 ∧
    (run1 (.wr 0x08 0xFF) busyState).regs.status = 0x11 := by decide
theorem test_encode_simple_config :
    let s := run1 .encodeSimple (run1 (.wr 0x28 7) (run1 (.wr 0x20 3) State.reset))
    s.session.cfg.stride = 12 ∧ s.session.cfg.format = 0 ∧ s.session.cfg.method = 4 ∧ s.session.cfg.target = 0 ∧ s.regs.stride = 0 ∧
    s.regs.format = 7 := by decide
theorem test_encode_clamps_and_signs :
    let s := run1 .encode (run1 (.wr 0x24 0xFFFFFFFF) (run1 (.wr 0x30 9) (run1 (.wr 0x2C 250) State.reset)))
    s.session.cfg.quality = 100 ∧ s.session.cfg.method = 6 ∧ s.session.cfg.height = -1 := by decide
/-- V-C11: acceptance after an earlier DONE. -/
theorem test_encode_after_done :
    let d : State := { State.reset with regs := { Regs.reset with status := 0x1A, outLen := 38, passes := 1 } }
    (run1 .encode d).regs.status = 0x19 ∧ (run1 .encode d).regs.outLen = 0 ∧ (run1 .encode d).regs.passes = 0 := by decide
/-- V-I2: an error with CTRL = 0, then WR CTRL, 1. -/
theorem test_irq_level :
    let e := raiseError .invalidDimensions busyState
    e.irq = false ∧ (run1 (.wr 0x04 1) e).irq = true ∧ (run1 .clear (run1 (.wr 0x04 1) e)).irq = false := by decide

/-! Legality checks: vectors V-X. -/

/-- A configuration of the check vectors. -/
def checkVector (w h : Int) (stride len format : Word) : EncConfig :=
  { EncConfig.unspecified with width := w, height := h, stride := stride, srcLen := len, format := format }

theorem test_checks :
    [checkVector 0 16 64 1024 0, checkVector 16 (-1) 64 1024 0, checkVector 16384 1 65536 65536 0, checkVector 16383 1 65532 65532 0,
     checkVector 16 16 64 1024 1, checkVector 0 16 64 1024 5, checkVector 16 16 64 0 5, checkVector 16 16 60 1024 0,
     checkVector 16 16 64 1023 0, checkVector 16 16 64 1024 0, checkVector 16 16 80 1280 0].map
        (fun c => (checkConfig c).map errorNumber) =
      [some 1, some 1, some 1, none, some 3, some 1, some 3, some 2, some 2, none, none] := by decide

/-! The pipeline: vectors V of sections 2.3 to 2.8. -/

def white : Rgb := { r := 255, g := 255, b := 255 }
def black : Rgb := { r := 0, g := 0, b := 0 }
def red : Rgb := { r := 255, g := 0, b := 0 }
def green : Rgb := { r := 0, g := 255, b := 0 }
def blue : Rgb := { r := 0, g := 0, b := 255 }
def yellow : Rgb := { r := 255, g := 255, b := 0 }

theorem test_colours :
    [white, black, red, green, blue, yellow, { r := 128, g := 128, b := 128 }, { r := 0x12, g := 0x34, b := 0x56 }].map
        (fun p => (yConv p, uConv4 [p, p, p, p], vConv4 [p, p, p, p])) =
      [(235, 128, 128), (16, 128, 128), (82, 90, 240), (145, 54, 34), (41, 240, 110), (210, 16, 146), (126, 128, 128), (55, 148, 111)] := by
  decide +kernel
theorem test_mixed_groups :
    [[white, black, red, blue], [red, green, white, black], [blue, blue, yellow, yellow]].map (fun g => (uConv4 g, vConv4 g)) =
      [(147, 151), (100, 133), (128, 128)] := by decide +kernel
theorem test_fdct :
    fdct ((List.range 16).map fun i => (i : Int) - 8) = [-4, -8, 0, 0, -35, 0, 0, 0, 0, 0, 0, 0, -2, 0, 0, 0] ∧
    fdct (10 :: List.replicate 15 0) = [5, 7, 5, 3, 7, 9, 7, 4, 5, 7, 5, 3, 3, 4, 3, 2] ∧
    fdct [-15, -5, 5, 15, -15, -5, 5, 15, -15, -5, 5, 15, -15, -5, 5, 15] = [0, -89, 0, -6] ++ List.replicate 12 0 ∧
    fdct (List.replicate 16 106) = 848 :: 1 :: List.replicate 14 0 ∧
    fdct (List.replicate 16 0) = 0 :: 1 :: List.replicate 14 0 := by decide +kernel
theorem test_idct :
    idct [-4, -8, 0, 0, -35, 0, 0, 0, 0, 0, 0, 0, -2, 0, 0, 0] = (List.range 16).map (fun i => (i : Int) - 8) ∧
    idct (848 :: List.replicate 15 0) = List.replicate 16 106 ∧
    idct [100, 50, 0, 0, -30, 0, 0, 0, 0, 0, 0, 0, 0, 0, 0, 0] = [16, 11, 4, -1, 19, 14, 7, 2, 23, 18, 11, 7, 26, 21, 14, 9] := by
  decide +kernel
theorem test_wht :
    fwht (List.replicate 16 848) = 6784 :: List.replicate 15 0 ∧
    fwht ((List.range 16).map fun i => (i : Int)) = [60, -8, 0, -4, -32, 0, 0, 0, 0, 0, 0, 0, -16, 0, 0, 0] ∧
    iwht (6784 :: List.replicate 15 0) = List.replicate 16 848 := by decide +kernel
theorem test_steps :
    [0, 1, 8, 18, 39, 61, 62, 88, 117, 118, 127].map (fun (q : QIndex) => (y1ac q, y2dc q, y2ac q, uvdc q, uvac q)) =
      [(4, 8, 8, 4, 4), (5, 10, 8, 5, 5), (12, 22, 18, 11, 12), (22, 40, 34, 20, 22), (43, 72, 66, 36, 43), (72, 112, 111, 56, 72),
       (74, 114, 114, 57, 74), (131, 164, 203, 82, 131), (234, 264, 362, 132, 234), (239, 268, 370, 132, 239), (284, 314, 440, 132, 284)] := by
  decide +kernel
theorem test_quant :
    [((-37 : Int), 12), (6, 12), (5, 12), (-6, 12), (6784, 8), (6784, 314), (20000, 4), (2, 4), (-2, 4), (1, 4)].map (fun x => quant x.1 x.2) =
      [-3, 1, 0, -1, 848, 22, 2047, 1, -1, 0] := by decide +kernel
theorem test_quality_index :
    [0, 1, 10, 25, 50, 75, 90, 99, 100].map qualityIndex = [127, 115, 88, 64, 39, 18, 8, 2, 0] := by decide +kernel
theorem test_bool_flush :
    [flushBytes BoolEnc.init, flushBytes (putAll .init (litBools 0xA5 8)), flushBytes (putBool .init 128 true),
     flushBytes (putAll .init (litBools 5 3))] = [[0, 0, 0, 0], [0xA4, 0xB6, 0, 0], [0x80, 0, 0, 0], [0x9F, 0xC0, 0, 0]] := by decide +kernel
theorem test_bool_states :
    putAll BoolEnc.init [(200, false), (200, true), (10, true)] = { out := [], range := 169, bottom := 0x273, bitCount := 22 } ∧
    putAll BoolEnc.init [(200, false), (200, true), (10, true), (128, false), (1, false), (255, true)] =
      { out := [], range := 128, bottom := 0x139BF80, bitCount := 7 } ∧
    putAll BoolEnc.init (litBools 0 29) = { out := [0], range := 128, bottom := 0, bitCount := 4 } := by decide +kernel
theorem test_bool_carry :
    putBool { out := [0x12, 0xFF], range := 200, bottom := 0x7FFFFFF0, bitCount := 1 } 128 true =
      { out := [0x13, 0, 0], range := 200, bottom := 0xA8, bitCount := 8 } := by decide +kernel
theorem test_walk_luma :
    walkBlock .yAfterY2 [0, 3, 0, 0, -1, 0, 0, 0, 0, 0, 0, 0, 0, 0, 0, 0] 0 =
      ([.node .yAfterY2 1 0 0 true, .node .yAfterY2 1 0 1 true, .node .yAfterY2 1 0 2 true, .node .yAfterY2 1 0 3 false,
        .node .yAfterY2 1 0 4 true, .node .yAfterY2 1 0 5 false, .fixed 128 false,
        .node .yAfterY2 2 2 0 true, .node .yAfterY2 2 2 1 true, .node .yAfterY2 2 2 2 false, .fixed 128 true,
        .node .yAfterY2 3 1 0 false], true) := by decide +kernel
theorem test_walk_chroma :
    walkBlock .chroma [5, -11, 0, 0, 0, 0, 0, 0, 0, 0, 0, 0, 0, 0, 0, 0] 2 =
      ([.node .chroma 0 2 0 true, .node .chroma 0 2 1 true, .node .chroma 0 2 2 true, .node .chroma 0 2 3 true, .node .chroma 0 2 6 false,
        .node .chroma 0 2 7 false, .fixed 159 false, .fixed 128 false,
        .node .chroma 1 2 0 true, .node .chroma 1 2 1 true, .node .chroma 1 2 2 true, .node .chroma 1 2 3 true, .node .chroma 1 2 6 true,
        .node .chroma 1 2 8 false, .node .chroma 1 2 9 false, .fixed 173 false, .fixed 148 false, .fixed 140 false, .fixed 128 true,
        .node .chroma 2 2 0 false], true) := by decide +kernel
theorem test_walk_position_15_has_no_eob :
    let w := walkBlock .yWithDc (List.replicate 15 0 ++ [2]) 1
    w.2 = true ∧ w.1.length = 21 ∧ w.1.getLast? = some (.fixed 128 false) ∧
    walkBlock .yAfterY2 (7 :: List.replicate 15 0) 0 = ([.node .yAfterY2 1 0 0 false], false) := by decide +kernel
theorem test_new_probability :
    [({ zeros := 16, ones := 0 } : NodeCount), { zeros := 0, ones := 1 }, { zeros := 3, ones := 1 }, { zeros := 1, ones := 1 }].map newProb =
      [255, 1, 192, 128] := by decide +kernel
theorem test_zigzag_and_bands :
    zigzagTable = [0, 1, 4, 8, 5, 2, 3, 6, 9, 12, 13, 10, 7, 11, 14, 15] ∧
    bandTable = [0, 1, 2, 3, 6, 4, 5, 6, 6, 6, 6, 6, 6, 6, 6, 7] := by decide

/-- The source planes of an image given by its samples. -/
def planesOf (w h : Nat) (f : Nat → Nat → Rgb) : EncConfig × SourcePlanes :=
  let c : EncConfig := { EncConfig.unspecified with width := w, height := h, method := 4 }
  let samples := (List.range h).map fun y => (List.range w).map fun x => f x y
  (c, { y := lumaPlane samples c, u := chromaPlane uConv4 samples c, v := chromaPlane vConv4 samples c })

/-- The costs of the four luma modes at macroblock (0, 0). -/
def costs (i : EncConfig × SourcePlanes) : List Nat :=
  [LumaMode.dcPred, .vPred, .hPred, .tmPred].map fun m =>
    sad (blockOf i.2.y 16 0 0) (predictLuma m (edgesAt (Recon.start i.1).y 16 0 0))

/-- The 3x2 image of V-E4. -/
def image32 : EncConfig × SourcePlanes :=
  planesOf 3 2 fun x y => (([[red, green, blue], [white, black, yellow]] : List (List Rgb)).getD y []).getD x black

/-- V-P1 and V-P7. -/
theorem test_mode_costs :
    costs (planesOf 16 16 fun _ _ => white) = [27392, 27648, 27136, 27136] ∧ costs image32 = [21786, 21982, 21590, 21590] := by decide +kernel

/-- V-E4's planes. -/
theorem test_padding :
    image32.2.y.take 2 = [82 :: 145 :: List.replicate 14 41, 235 :: 16 :: List.replicate 14 210] ∧
    image32.2.u = List.replicate 8 (100 :: List.replicate 7 128) ∧ image32.2.v.head? = some (133 :: List.replicate 7 128) := by decide +kernel

/-- The token partition of a frame, coded at the adapted probabilities (they do not depend on the open tables, R373). -/
def tokenPartition (i : EncConfig × SourcePlanes) (q : QIndex) : List Byte :=
  let toks := (walkFrame i.1.mbw (analyseFrame i.1 q i.2).2).1
  let counts := countAll toks
  flushBytes (putAll BoolEnc.init (toks.map (tokenProb (counts.map fun c => BitVec.ofNat 8 (newProb c)))))

/-- V-E1. -/
theorem test_white_tokens : tokenPartition (planesOf 16 16 fun _ _ => white) 0 = [0xFC, 0xEA, 0xA6, 0x00] := by decide +kernel
/-- V-E3. -/
theorem test_halves_tokens :
    tokenPartition (planesOf 16 16 fun x _ => if x < 8 then white else black) 18 = [0xED, 0x21, 0x00, 0x00] := by decide +kernel
/-- V-E4: mode, Y2 levels, number of token booleans, and the reconstruction over the image. -/
theorem test_image32_analysis :
    let f := analyseFrame image32.1 0 image32.2
    f.2.map (fun m => (m.ymode, m.y2)) = [(.hPred, [489, -75, -75, -75, -75, 10, 10, 10, -75, 10, 10, 10, -75, 10, 10, 10])] ∧
    (walkFrame 1 f.2).1.length = 918 ∧ (f.1.y.take 2).map (·.take 3) = [[82, 146, 40], [235, 16, 211]] ∧
    (planeAt f.1.u 0 0, planeAt f.1.v 0 0) = (100, 134) := by decide +kernel
/-- V-H2 and V-H3. -/
theorem test_headers :
    frameHeader 18 16 16 = [0x50, 0x02, 0x00, 0x9D, 0x01, 0x2A, 0x10, 0x00, 0x10, 0x00] ∧
    frameHeader 150 1 1 = [0xD0, 0x12, 0x00, 0x9D, 0x01, 0x2A, 0x01, 0x00, 0x01, 0x00] ∧
    frameHeader 0x7FFFF 16383 16383 = [0xF0, 0xFF, 0xFF, 0x9D, 0x01, 0x2A, 0xFF, 0x3F, 0xFF, 0x3F] ∧ riffSize 18 = 30 ∧ riffSize 293 = 306 ∧
    (webpFile (List.replicate 293 1)).length = 314 := by decide +kernel
/-- V-R5 and V-R6: the indices the search visits. -/
theorem test_search_indices :
    [(40, 127), (84, 127), (106, 127), (117, 127), (123, 127), (126, 127), (127, 127)].map (fun p => midIndex p.1 p.2) =
      [83, 105, 116, 122, 125, 126, 127] ∧
    [126, 62, 30, 14, 6, 2, 0].map (fun hi => midIndex 0 hi) = [63, 31, 15, 7, 3, 1, 0] := by decide +kernel
/-- V-R2 and V-R4. -/
theorem test_tolerance :
    [950, 1050, 949, 1051].map (within · 1000) = [true, true, false, false] ∧
    (let a : PassResult := { file := [], size := 1200, q := 39, payloadLen := 0 }
     closest .target 1000 (some a) { a with size := 800, q := 83 } = a) := by decide +kernel


/-! Witnesses: for each statement with hypotheses, a state and operands that meet them, at a boundary of each clause's range. -/

/-- A 1x1 image at 0x1000 whose file goes to 0x2000. -/
def tinyConfig : EncConfig :=
  { srcAddr := 0x1000, srcLen := 4, stride := 4, width := 1, height := 1, format := 0, quality := 100, method := 4, target := 0,
    dstAddr := 0x2000, dstCap := 64 }

/-- A platform of ordinary memory with the register window at the top. -/
def ramPlatform : Platform := { regBase := 0xFFFFF000, dmaCoherent := true, map := [] }

/-- A state right after the acceptance of an encode. -/
def accepted (c : EncConfig) : State :=
  { State.reset with
    regs := { Regs.reset with status := 1 }
    phase := .check
    session := { Session.unspecified with cfg := c }
    platform := ramPlatform }

/-- A state in CONVERT. -/
def converting : State := { accepted tinyConfig with phase := .convert }

/-- A state in WRITE with a three-byte file to write. -/
def writing : State :=
  { accepted tinyConfig with
    phase := .write
    session := { Session.unspecified with
      cfg := tinyConfig, k := 1, best := some { file := [7, 0, 9], size := 3, q := 0, payloadLen := 1 } } }

/-- The same host with one input next. -/
def withInput (x : Input) (s : State) : State := { s with inputs := [x] }

/-- An outcome whose next state passes a check is a next state that does. -/
theorem next_of {o : Host.Outcome State Fault Refusal} (p : State → Bool) (h : (after o).any p = true) : ∃ t, o = .next t ∧ p t = true := by
  cases o with
  | next s => exact ⟨s, rfl, h⟩
  | fault r => cases h
  | refused r => cases h

theorem accepted_inv : MachineInv (accepted tinyConfig) := by
  unfold MachineInv RegsInv RateInv ConfigInv exclusiveFlags
  decide

theorem writing_inv : MachineInv writing := by
  unfold MachineInv RegsInv RateInv ConfigInv exclusiveFlags
  decide

theorem converting_inv : MachineInv converting := by
  unfold MachineInv RegsInv RateInv ConfigInv exclusiveFlags
  decide

theorem witness_ResetInput : (withInput .reset writing).inputs = .reset :: [] ∧ writing.phase = .write := by decide

theorem witness_RdReturnsTheRegister : (0x50 : Offset).toNat % 4 = 0 ∧ 0x50 ≤ (0xFFC : Offset).toNat ∧ (0xFFC : Offset).toNat % 4 = 0 := by decide

theorem witness_WrStoresTheRegister :
    (0x4C : Offset) ∈ [(0x00 : Offset), 0x0C, 0x10, 0x40, 0x44, 0x48, 0x4C] ∧ (0x50 : Offset).toNat % 4 = 0 ∧
    0x50 ≤ (0xFFC : Offset).toNat ∧ (0xFFC : Offset).toNat % 4 = 0 := by decide

/-- A halfword read, a byte write, a word at an odd offset, and the last word of the window. -/
theorem witness_UnsupportedAccessRefused :
    (withInput (.bus (.read 0x0C 2)) State.reset).inputs = .bus (.read 0x0C 2) :: [] ∧ (2 : Nat) ≠ 4 ∧
    (withInput (.bus (.write 0x08 [1])) State.reset).inputs = .bus (.write 0x08 [1]) :: [] ∧ [(1 : Byte)].length ≠ 4 ∧
    (0xFFD : Offset).toNat % 4 ≠ 0 ∧ [(0 : Byte), 0, 0, 1].length = 4 ∧ (0xFFC : Offset).toNat % 4 = 0 := by decide

/-- The two ends of the window, and a device just below it. -/
theorem witness_UnsupportedAccessRefused_host :
    let p := { ramPlatform with map := [{ base := 0xFFFFEFFF, size := 1, kind := .device }] }
    (withInput (.hostStore 0xFFFFF000 1) State.reset).inputs = .hostStore 0xFFFFF000 1 :: [] ∧
    Input.cacheInvalidate 5 ∈ [.hostStore 5 1, .hostLoad 5, .cacheClean 5, .cacheInvalidate 5] ∧
    ((0xFFFFF000 : Word) - p.regBase).toNat < 4096 ∧ ((0xFFFFFFFF : Word) - p.regBase).toNat < 4096 ∧
    4096 ≤ ((0xFFFFEFFF : Word) - p.regBase).toNat ∧ regionKind p 0xFFFFEFFF ≠ .ram := by decide

theorem witness_StepRunsTheDecodedInstruction :
    (withInput (.bus (.write 0x08 [1, 0, 0, 0])) State.reset).inputs = .bus (.write 0x08 [1, 0, 0, 0]) :: [] ∧
    decode (.write 0x08 [1, 0, 0, 0]) = .instr .encode ∧
    (withInput .block writing).inputs = .block :: [] ∧ writing.inputs = [] ∧ State.reset.phase = .idle := by decide

/-- A transition with a next state, one that faults and one that is refused. -/
theorem witness_StepRunsTheDecodedInstruction_block :
    (∃ t, stepBlock writing = .next t ∧ t.done = true) ∧
    stepBlock { writing with session := Session.unspecified } = .fault .writeWithoutResult ∧
    (after (stepBlock (accepted { tinyConfig with dstAddr := 0xFFFFEFC1 }))).isNone = true :=
  ⟨next_of _ (by decide +kernel), rfl, by decide +kernel⟩

theorem witness_DecodeOfEncode : (Instr.wr 0xFFC 0xFFFFFFFF).WellFormed ∧ (Instr.wr 0x008 0x00000004).WellFormed ∧ Instr.clear.WellFormed := by
  decide

theorem witness_EncodeOfDecode :
    decode (.read 0x000 4) = .instr (.rd 0x000) ∧ decode (.write 0xFFC [1, 2, 3, 4]) = .instr (.wr 0xFFC 0x04030201) := by decide

theorem witness_not_busy : State.reset.busy = false := by decide

theorem witness_EncodeIsAccepted : (raiseError .encodingOverflow writing).busy = false ∧ (raiseError .encodingOverflow writing).err = true := by
  decide

theorem witness_EncodeSimpleIsAccepted :
    ({ State.reset with regs := { Regs.reset with status := 0x1A, width := 0x80000000, format := 9 } } : State).busy = false := by decide

theorem witness_ClearAcknowledges :
    ({ State.reset with regs := { Regs.reset with status := 0x1C, errCode := 5 } } : State).busy = false ∧ writing.busy = true := by decide

theorem witness_BusyDropsCommands : busyState.busy = true ∧ (Instr.encode = .encode ∨ Instr.encode = .encodeSimple ∨ Instr.encode = .clear) := by
  decide

theorem witness_BadCmdIsSticky :
    3 < (4 : Word).toNat ∧ ({ State.reset with regs := { Regs.reset with status := 0x10 } } : State).badCmd = true ∧
    ∃ t, step { State.reset with regs := { Regs.reset with status := 0x10 }, inputs := [.bus (.read 0x0C 4)] } = .next t ∧ t.badCmd = true :=
  ⟨by decide, by decide, next_of _ (by decide)⟩

/-- An encode that ends in an error with the interrupt enabled. -/
theorem witness_InterruptIsALevel :
    (accepted { tinyConfig with width := 0 }).phase ≠ .idle ∧
    ∃ t, stepBlock { accepted { tinyConfig with width := 0 } with regs := { Regs.reset with status := 1, ctrl := 1 } } = .next t ∧
      (decide (t.phase = .idle) && t.irq) = true :=
  ⟨by decide, next_of _ (by decide)⟩

/-- One state for each branch of the check, at the boundaries of the dimensions. -/
theorem witness_CheckOrder :
    (∀ c ∈ [{ tinyConfig with width := 0 }, { tinyConfig with height := 16384 }],
      (accepted c).phase = .check ∧ (accepted c).inputs = [] ∧ (c.width ≤ 0 ∨ c.height ≤ 0 ∨ 16383 < c.width ∨ 16383 < c.height)) ∧
    (let c := { tinyConfig with width := 16383, format := 1 }
     ¬(c.width ≤ 0 ∨ c.height ≤ 0 ∨ 16383 < c.width ∨ 16383 < c.height) ∧ c.format ≠ 0) ∧
    (let c := { tinyConfig with srcLen := 3 }; c.format = 0 ∧ (c.srcLen.toNat : Int) < (c.stride.toNat : Int) * c.height) ∧
    (∃ t, step (accepted tinyConfig) = .next t ∧ decide (t.phase = .convert) = true) ∧
    (after (step (accepted { tinyConfig with dstAddr := 0xFFFFEFC1 }))).isNone = true :=
  ⟨by decide, by decide, by decide, next_of _ (by decide +kernel), by decide +kernel⟩

/-- A region none of whose bytes lies in the window, by evaluation. -/
theorem all_outside {p : Platform} {l : List Word} (h : l.all (fun a => !inRegisterWindow p a) = true) :
    ∀ a ∈ l, inRegisterWindow p a = false := fun a ha => Bool.not_eq_true' _ |>.mp (List.all_eq_true.mp h a ha)

/-- Every address of a platform with an empty map is ordinary memory. -/
theorem ram_everywhere (a : Word) : regionKind ramPlatform a = .ram := rfl

theorem witness_UnsupportedBuffersRefused :
    checkConfig tinyConfig = none ∧
    (∃ a ∈ destRegion { tinyConfig with dstAddr := 0xFFFFEFC1 }, (a - ramPlatform.regBase).toNat < 4096) ∧
    (∃ a ∈ sourceRegion tinyConfig, regionKind { ramPlatform with map := [{ base := 0x1003, size := 1, kind := .device }] } a = .device) ∧
    (∀ a ∈ sourceRegion tinyConfig, ¬(a - ramPlatform.regBase).toNat < 4096 ∧ regionKind ramPlatform a ≠ .device) ∧
    (∀ a ∈ destRegion { tinyConfig with dstAddr := 0xFFFFEFC0 }, ¬(a - ramPlatform.regBase).toNat < 4096) :=
  ⟨by decide, ⟨0xFFFFF000, by decide +kernel, by decide⟩, ⟨0x1003, by decide +kernel, by decide +kernel⟩,
    fun a ha => ⟨of_decide_eq_false (all_outside (p := ramPlatform) (by decide +kernel) a ha), by rw [ram_everywhere]; decide⟩,
    fun a ha => of_decide_eq_false (all_outside (p := ramPlatform) (by decide +kernel) a ha)⟩

theorem witness_ErrorEntry :
    (accepted tinyConfig).phase ≠ .idle ∧
    ∃ t, stepBlock (accepted { tinyConfig with format := 2 }) = .next t ∧ decide (t.phase = .idle ∧ t.done = false ∧ t.regs.errCode = 3) = true :=
  ⟨by decide, next_of _ (by decide)⟩

theorem witness_NoOutputOnError :
    MachineInv { accepted { tinyConfig with srcLen := 3 } with inputs := [.bus (.read 0x0C 4), .block] } ∧
    ∃ t, Host.Core.run core 2 { accepted { tinyConfig with srcLen := 3 } with inputs := [.bus (.read 0x0C 4), .block] } = .next t ∧
      t.err = true := by
  refine ⟨?_, next_of _ (by decide +kernel)⟩
  unfold MachineInv RegsInv RateInv ConfigInv exclusiveFlags
  decide

/-- A capacity one byte short, and one that just fits. -/
theorem witness_OverflowComesBeforeTheWrite :
    (∃ best, ({ writing with session := { writing.session with cfg := { tinyConfig with dstCap := 2 } } } : State).session.best = some best ∧
      (2 : Word).toNat < best.size) ∧
    (∃ best, writing.session.best = some best ∧ best.size ≤ (3 : Word).toNat) ∧ writing.phase = .write ∧ writing.inputs = [] ∧
    (∃ t, step { writing with session := { writing.session with cfg := { tinyConfig with dstCap := 3 } } } = .next t ∧ t.done = true) :=
  ⟨⟨_, rfl, by decide⟩, ⟨_, rfl, by decide⟩, rfl, rfl, next_of _ (by decide +kernel)⟩

theorem witness_PayloadTooLargeEndsTheEncode : ({ writing with phase := .pass } : State).phase = .pass ∧ writing.inputs = [] := by decide

/-- The hypotheses of both clauses, for a file that crosses the top of the address space, a platform with
a device under one byte, and a machine with a raced byte and one that is not. -/
theorem witness_WriteStoresTheFile :
    (∃ best, writing.session.best = some best ∧ best.size = best.file.length ∧ best.size ≤ writing.session.cfg.dstCap.toNat ∧
      (2 : Word).toNat < best.size ∧ ∀ i < best.size, regionKind writing.platform (addrPlus 0xFFFFFFFF i) = .ram) ∧
    writing.mem.wf = true ∧ writing.phase = .write ∧ writing.inputs = [] ∧
    (let p := { ramPlatform with map := [{ base := 0x2001, size := 1, kind := .device }] }
     (∀ i < 3, regionKind p (addrPlus 0x2000 i) ≠ .absent) ∧ regionKind p (addrPlus 0x2000 0) = .ram ∧ regionKind p (addrPlus 0x2000 1) = .device) ∧
    (let s := { writing with dstRace := [0x2002] }
     (addrPlus s.session.cfg.dstAddr 2).toNat ∈ s.dstRace ∧ (addrPlus s.session.cfg.dstAddr 0).toNat ∉ s.dstRace) :=
  ⟨⟨_, rfl, by decide, by decide, by decide, by decide⟩, by decide, rfl, rfl, by decide, by decide⟩

theorem witness_OnlyWriteTouchesMemory :
    (∃ t, stepBlock (accepted tinyConfig) = .next t ∧ true = true) ∧ (∃ t, exec .encode State.reset = .next t ∧ t.busy = true) ∧
    (∃ t, step (withInput .reset writing) = .next t ∧ true = true) ∧ (∃ t, stepBlock writing = .next t ∧ t.done = true) ∧
    ∃ a : Nat, ∀ x ∈ destRegion tinyConfig, a ≠ x.toNat :=
  ⟨next_of _ (by decide +kernel), next_of _ (by decide), next_of _ (by decide), next_of _ (by decide +kernel), 0,
    fun x hx => of_decide_eq_true (List.all_eq_true.mp (by decide +kernel : (destRegion tinyConfig).all (fun x => decide (0 ≠ x.toNat)) = true) x hx)⟩

/-- A hole under the last source byte, and one under the last file byte. -/
theorem witness_StuckForEver :
    RegsInv { converting with platform := { ramPlatform with map := [{ base := 0x1003, size := 1, kind := .absent }] } } ∧
    (∃ a ∈ sourceRegion tinyConfig, regionKind { ramPlatform with map := [{ base := 0x1003, size := 1, kind := .absent }] } a = .absent) ∧
    RegsInv writing ∧
    (∃ best, writing.session.best = some best ∧ best.size ≤ tinyConfig.dstCap.toNat ∧
      (∃ i < best.size, regionKind { ramPlatform with map := [{ base := 0x2002, size := 1, kind := .absent }] } (addrPlus 0x2000 i) = .absent)) :=
  ⟨converting_inv.1, ⟨0x1003, by decide +kernel, by decide +kernel⟩, writing_inv.1, _, rfl, by decide, ⟨2, by decide, by decide +kernel⟩⟩

theorem witness_EncodeTerminates :
    MachineInv (accepted tinyConfig) ∧ (accepted tinyConfig).phase = .check ∧ (accepted tinyConfig).inputs = [] ∧
    Supported ramPlatform tinyConfig :=
  ⟨accepted_inv, rfl, rfl, fun a ha => ⟨all_outside (by decide +kernel) a ha, ram_everywhere a⟩,
    fun a ha => ⟨all_outside (by decide +kernel) a ha, ram_everywhere a⟩⟩

/-- The 1x1 encode with room for any file of it. -/
def roomyConfig : EncConfig := { tinyConfig with dstCap := 100000 }

/-- Its session when CONVERT is done, over memory that holds zeros. -/
def roomySession : Session := rateInit (convertPlanes (accepted roomyConfig) { Session.unspecified with cfg := roomyConfig })

/-- A host whose machine differs from `accepted` in what does not matter to the encode. -/
def otherHost : State :=
  { accepted roomyConfig with
    regs := { Regs.reset with status := 0x19, ctrl := 1, quality := 3 }
    busData := 5
    session := { Session.unspecified with cfg := roomyConfig, ySrc := [[1]] }
    mem := [(0x2000, 0xAA)] }

theorem roomy_pass_fits (ses : Session) (hc : ses.cfg = roomySession.cfg) (hq : ses.q = roomySession.q)
    (hs : ses.source = roomySession.source) :
    payloadTooLarge (runPass ses) = false ∧ (runPass ses).result.size ≤ 75000 := by
  refine small_pass_fits ses ?_ ?_
  · rw [hc, hq, hs]; decide +kernel
  · rw [hc, hq, hs]; decide +kernel

/-- From CONVERT on, in default mode over ordinary memory, a pass that fits completes in three steps. -/
theorem run_from_convert {s : State} (hp : s.phase = .convert) (hi : s.inputs = []) (hm : s.platform = ramPlatform)
    (ht : s.session.cfg.target = 0)
    (hf : payloadTooLarge (runPass (rateInit (convertPlanes s s.session))) = false ∧
      (runPass (rateInit (convertPlanes s s.session))).result.size ≤ s.session.cfg.dstCap.toNat) :
    ∃ t, Host.Core.run core 3 s = .next t ∧ t.phase = .idle ∧ t.done = true ∧ t.err = s.err := by
  have ram : ∀ a, regionKind s.platform a = .ram := by intro a; rw [hm]; exact ram_everywhere a
  have adm : ∀ l, admitted s.platform l = true := by
    intro l; exact List.all_eq_true.mpr fun a _ => by rw [ram]; rfl
  have h1 : step s = .next
      { s with session := rateInit (convertPlanes s s.session), phase := .pass, freeCount := s.freeCount + 1 } := by
    rw [step_of_no_input hi]
    unfold stepBlock
    rw [hp]
    simp only [stepConvert, adm, if_true]
  have hmode : (rateInit (convertPlanes s s.session)).mode = .default := if_pos ht
  have hcfg : (rateInit (convertPlanes s s.session)).cfg = s.session.cfg := rfl
  generalize rateInit (convertPlanes s s.session) = ses at h1 hf hmode hcfg
  rw [run_succ 2 h1]
  have hrate := rateStep_keeps (runPass ses) (runPass ses).result
  have hverdict : (rateStep (runPass ses) (runPass ses).result).2 = .stop := by
    have e : (runPass ses).mode = .default := hmode
    unfold rateStep
    rw [e]
    rfl
  generalize hu : ({ s with session := ses, phase := .pass, freeCount := s.freeCount + 1 } : State) = u
  have h2 : step u = .next { u with session := (rateStep (runPass ses) (runPass ses).result).1, phase := .write } := by
    rw [step_of_no_input (by rw [← hu]; exact hi), ← hu]
    simp only [stepBlock, stepPass, hf.1, Bool.false_eq_true, if_false, hverdict, phaseAfter]
  rw [run_succ 1 h2]
  have hmode2 : (runPass ses).mode = .default := hmode
  have hcfg2 : (runPass ses).cfg = s.session.cfg := hcfg
  rw [hmode2] at hrate
  obtain ⟨k1, -, -, -, -, k2⟩ := hrate
  have k2' : (rateStep (runPass ses) (runPass ses).result).1.best = some (runPass ses).result := k2
  generalize (rateStep (runPass ses) (runPass ses).result).1 = ses' at *
  have h3 : step { u with session := ses', phase := .write } = .next (complete (runPass ses).result
      { u with
        session := ses', phase := .write
        mem := writeCells u.mem (writtenCells { u with session := ses', phase := .write } (runPass ses).result.file)
        freeCount := u.freeCount + 1 }) := by
    have hpl : u.platform = s.platform := by rw [← hu]
    rw [step_of_no_input (by rw [← hu]; exact hi)]
    simp only [stepBlock, stepWrite, k2', k1, hcfg2, hpl, adm, Nat.not_lt.mpr hf.2, if_false, if_true]
  rw [run_succ 0 h3]
  refine ⟨_, rfl, rfl, complete_done _ _, (complete_err _ _).trans ?_⟩
  rw [← hu]; rfl

theorem roomy_completes (s : State) (hp : s.phase = .check) (hi : s.inputs = []) (hm : s.platform = ramPlatform)
    (hc : s.session.cfg = roomyConfig) (hr : (convertPlanes s s.session).source = (convertPlanes (accepted roomyConfig) (accepted roomyConfig).session).source) :
    ∃ t, Host.Core.run core 4 s = .next t ∧ t.phase = .idle ∧ t.done = true ∧ t.err = s.err := by
  have h1 : step s = .next { s with phase := .convert } := by
    rw [step_of_no_input hi]
    unfold stepBlock
    rw [hp]
    have e : checkConfig roomyConfig = none ∧ unsupportedRegion ramPlatform roomyConfig = none := by decide +kernel
    simp only [stepCheck, hm, hc, e.1, e.2]
  rw [run_succ 3 h1]
  refine run_from_convert rfl hi hm (by rw [hc]; rfl) ?_
  have hf := roomy_pass_fits (rateInit (convertPlanes s s.session)) hc (by show qualityIndex s.session.cfg.quality = _; rw [hc]; rfl) hr
  refine ⟨hf.1, hf.2.trans ?_⟩
  rw [show ({ s with phase := .convert } : State).session.cfg = roomyConfig from hc]
  decide

/-- Two machines that meet every hypothesis and complete. -/
theorem witness_EncodeIsDeterministic :
    MachineInv (accepted roomyConfig) ∧ MachineInv otherHost ∧ otherHost.mem.wf = true ∧ RaceFree otherHost ∧ RaceFree (accepted roomyConfig) ∧
    (∀ a ∈ sourceRegion roomyConfig, readByte (accepted roomyConfig).mem a.toNat = readByte otherHost.mem a.toNat) ∧
    (∃ t, Host.Core.run core 4 (accepted roomyConfig) = .next t ∧ t.phase = .idle ∧ t.done = true ∧ t.err = (accepted roomyConfig).err) ∧
    (∃ t, Host.Core.run core 4 otherHost = .next t ∧ t.phase = .idle ∧ t.done = true ∧ t.err = otherHost.err) := by
  refine ⟨?_, ?_, by decide, ⟨rfl, rfl⟩, ⟨rfl, rfl⟩, ?_, ?_, ?_⟩
  · unfold MachineInv RegsInv RateInv ConfigInv exclusiveFlags; decide
  · unfold MachineInv RegsInv RateInv ConfigInv exclusiveFlags; decide
  · intro a ha
    exact of_decide_eq_true (List.all_eq_true.mp (by decide +kernel : (sourceRegion roomyConfig).all
      (fun a => decide (readByte (accepted roomyConfig).mem a.toNat = readByte otherHost.mem a.toNat)) = true) a ha)
  · exact roomy_completes _ rfl rfl rfl rfl rfl
  · exact roomy_completes _ rfl rfl rfl rfl (by decide +kernel)

/-- A WIDTH write in WRITE, and a CTRL write in CONVERT, each with the block's transition after it. -/
theorem witness_RunningEncodeKeepsItsSnapshot :
    (0x04 : Offset) ∈ [(0x04 : Offset), 0x14, 0x18, 0x1C, 0x20, 0x24, 0x28, 0x2C, 0x30, 0x34, 0x38, 0x3C] ∧
    (0x3C : Offset) ∈ [(0x04 : Offset), 0x14, 0x18, 0x1C, 0x20, 0x24, 0x28, 0x2C, 0x30, 0x34, 0x38, 0x3C] ∧
    ∃ u, stepBlock writing = .next u ∧ u.done = true := ⟨by decide, by decide, next_of _ (by decide +kernel)⟩

/-- A store of the value an unlisted byte reads as, to the last address. -/
theorem witness_MemoryStaysCanonical :
    Memory.wf [(0xFFFFFFFF, 5)] = true ∧
    ∃ t, step { State.reset with platform := { ramPlatform with regBase := 0 }, mem := [(0xFFFFFFFF, 5)], inputs := [.hostStore 0xFFFFFFFF 0] } = .next t ∧
      decide (t.mem = []) = true := ⟨by decide, next_of _ (by decide +kernel)⟩

theorem witness_MachineInvIsKept : MachineInv writing ∧ ∃ t, step writing = .next t ∧ t.done = true :=
  ⟨writing_inv, next_of _ (by decide +kernel)⟩

/-- A kept result that is a single pass's. -/
theorem witness_BestIsASinglePass :
    let s : State := { writing with session := { roomySession with best := some (runPass roomySession).result } }
    BestInv s ∧ s.session.best ≠ none ∧ ∃ t, step { s with inputs := [.bus (.read 0x0C 4)] } = .next t ∧ t.busy = true := by
  refine ⟨?_, by simp, next_of _ (by rfl)⟩
  intro _ b hb
  cases hb
  rfl

theorem witness_ConvertBuildsThePlanes :
    converting.phase = .convert ∧ converting.inputs = [] ∧ converting.srcRace = [] ∧ checkConfig tinyConfig = none ∧
    (∀ a ∈ sourceRegion tinyConfig, regionKind ramPlatform a = .ram) := ⟨rfl, rfl, rfl, by decide, fun a _ => ram_everywhere a⟩

/-- Two memories that differ in the alpha byte of the one pixel. -/
theorem witness_AlphaIsDiscarded :
    (∀ y < roomyConfig.h, ∀ x < roomyConfig.w, ∀ j < 3,
      readByte [(0x1003, 0xFF)] (sourceAddr roomyConfig x y j).toNat = readByte [] (sourceAddr roomyConfig x y j).toNat) ∧
    readByte [(0x1003, 0xFF)] (sourceAddr roomyConfig 0 0 3).toNat ≠ readByte [] (sourceAddr roomyConfig 0 0 3).toNat := by decide +kernel

theorem witness_LumaPredictors : (15 : Nat) < 16 ∧ (7 : Nat) < 8 ∧ (0 : Nat) < 1 := by decide

theorem witness_SelectionIsTheCheapestMode :
    (1 ≤ (1 : Nat) ∧ (3 : Nat) ≤ 3) ∧ (4 ≤ (4 : Nat) ∧ (6 : Nat) ≤ 6) ∧ LumaMode.dcPred ∈ candidates 0 ∧ LumaMode.hPred ∈ candidates 3 ∧
    LumaMode.tmPred ∈ candidates 4 := by decide

/-- Inputs at the ends of both ranges, and the largest results they reach. -/
theorem witness_ForwardTransformRanges :
    (∀ i < 16, -255 ≤ coefAt (List.replicate 16 (-255)) i ∧ coefAt (List.replicate 16 (-255)) i ≤ 255) ∧
    coefAt (fdct (List.replicate 16 (-255))) 0 = -2040 ∧ (∀ i < 16, (coefAt (List.replicate 16 2040) i).natAbs ≤ 2040) ∧
    coefAt (fwht (List.replicate 16 2040)) 0 = 16320 := by decide +kernel

theorem witness_LevelsAreNeverCapped : (15 : Nat) < 16 ∧ (3 : Nat) < 4 := by decide

/-- The largest magnitude the smallest step does not cap, and a half. -/
theorem witness_QuantRoundsToNearest : (4 : Nat) ≤ 4 ∧ ((-8189 : Int).natAbs + 4 / 2) / 4 ≤ 2047 ∧ quant (-8189) 4 = -2047 ∧ quant 6 4 = 2 := by
  decide +kernel

theorem witness_InverseOfDcOnly : (0 : Nat) < 16 ∧ (15 : Nat) < 16 := by decide

theorem witness_StepsAreMonotone : (0 : QIndex) ≤ 127 ∧ (127 : QIndex) ≤ 127 := by decide

/-- The last macroblock of a frame of two by one. -/
theorem witness_AnalysisWritesOneMacroblock :
    let rec0 := Recon.start { tinyConfig with width := 32, height := 16 }
    (0 : Nat) < 1 ∧ (1 : Nat) < 2 ∧ Sized rec0.y (16 * 1) (16 * 2) ∧ Sized rec0.u (8 * 1) (8 * 2) ∧ Sized rec0.v (8 * 1) (8 * 2) := by
  unfold Sized
  decide +kernel

theorem witness_PutKeepsTheCoderState :
    let e : BoolEnc := { out := [0x12, 0xFF], range := 128, bottom := 0x7FFFFFF0, bitCount := 1 }
    128 ≤ e.range ∧ e.range ≤ 255 ∧ 1 ≤ e.bitCount ∧ e.bitCount ≤ 24 ∧ (1 : Nat) ≤ 255 := by decide

theorem witness_BoolCoderIsExact : ∀ b ∈ [((1 : Nat), true), (255, true), (128, false)], 1 ≤ b.1 ∧ b.1 ≤ 255 := by decide

/-- A block with its one level at the last position, one whose level is not coded, and a frame of one macroblock, one column wide. -/
theorem witness_WalkFlagsNonzeroBlocks :
    (walkBlock .chroma [0, 0, 0, 0, 0, 0, 0, 0, 0, 0, 0, 0, 0, 0, 0, 1] 0).2 = true ∧ (walkBlock .yAfterY2 [5] 0).2 = false ∧ (0 : Nat) < 1 ∧
    (let blocks (n : Nat) : List (List Int) := List.replicate n (List.replicate 16 1)
     ∀ m ∈ [({ ymode := .dcPred, uvmode := .dcPred, q := 0, y2 := [1], y := blocks 16, u := blocks 4, v := blocks 4 } : MbRecord)],
       m.y.length = 16 ∧ m.u.length = 4 ∧ m.v.length = 4) := by decide +kernel

/-- A block that ends at its first coded position, one that ends at position 15, and two blocks that differ only where type 0 codes nothing. -/
theorem witness_TokensDetermineTheLevels :
    (coefAt [0, 7] 1 ≠ 0 ∧ ∀ i < 16, 1 < i → coefAt (zigzag [0, 7]) i = 0) ∧
    (coefAt (zigzag (List.replicate 15 0 ++ [1])) 15 ≠ 0 ∧ (15 : Nat) < 16) ∧
    (∀ x ∈ [(2047 : Int), -2047, 0, 0, 1], x.natAbs ≤ 2047) ∧
    (walkBlock .yAfterY2 [2047, -2047, 0, 0, 1] 0).1 = (walkBlock .yAfterY2 [0, -2047, 0, 0, 1] 0).1 := by decide +kernel

/-- The table a frame itself is coded with has the adapted values wherever a boolean was counted. -/
theorem codingProbs_adapted (counts : List NodeCount) :
    ∀ i < nodeTotal, 0 < (countAt counts i).total → ((codingProbs counts).getD i 128).toNat = newProb (countAt counts i) := by
  intro i hi h
  have hl : i < (codingProbs counts).length := by simpa [codingProbs] using hi
  have hn : newProb (countAt counts i) < 2 ^ 8 := by
    unfold newProb
    generalize (countAt counts i).ones * 255 / (countAt counts i).total = x
    omega
  rw [List.getD_eq_getElem _ _ hl]
  simp only [codingProbs, List.getElem_map, List.getElem_range, h, if_true, BitVec.toNat_ofNat]
  exact Nat.mod_eq_of_lt hn

/-- The record of the white macroblock of V-E1. -/
def whiteRecords : List MbRecord := (analyseFrame (planesOf 16 16 fun _ _ => white).1 0 (planesOf 16 16 fun _ _ => white).2).2

theorem witness_TokenPartitionIgnoresTheDefaults :
    (∀ i < nodeTotal, 0 < (countAt (codeFrame 1 0 whiteRecords).counts i).total →
      ((codeFrame 1 0 whiteRecords).probs.getD i 128).toNat = newProb (countAt (codeFrame 1 0 whiteRecords).counts i)) ∧
    0 < (countAt (countAll (walkFrame 1 whiteRecords).1) (nodeIndex 1 0 0 10)).total := by
  refine ⟨?_, by decide +kernel⟩
  simp only [codeFrame]
  exact codingProbs_adapted _

theorem witness_QualityMapping : (99 : Nat) < 100 ∧ (2 ^ 32 - 1 : Nat) < 2 ^ 32 := by decide

/-- V-R3's first pass, which goes on, a size within tolerance, which stops, and sizes outside it: one to go on from, one that leaves an empty
interval and one of the eighth pass. -/
theorem witness_PassLoopMakesProgress :
    let ses : Session := { Session.unspecified with cfg := { tinyConfig with target := 1000 }, mode := .target, q := 39 }
    let r : PassResult := { file := [], size := 1500, q := 39, payloadLen := 0 }
    0 ≤ ses.lo ∧ ses.lo ≤ (ses.q.val : Int) ∧ (ses.q.val : Int) ≤ ses.hi ∧ ses.hi ≤ 127 ∧ (rateStep ses r).2 = .again 83 ∧
    20 * ((1050 : Int) - ses.cfg.target.toNat).natAbs ≤ ses.cfg.target.toNat ∧
    ses.cfg.target.toNat < 20 * ((r.size : Int) - ses.cfg.target.toNat).natAbs ∧
    (rateStep { ses with lo := 39, hi := 39 } r).2 = .stop ∧ (rateStep { ses with k := 7 } r).2 = .stop ∧
    (rateStep { ses with k := 6 } r).2 = .again 83 := by decide +kernel

theorem witness_FrameHeaderFields : (0x7FFFF : Nat) < 2 ^ 19 ∧ (16383 : Nat) ≤ 16383 := by decide

theorem witness_FilesAreWellFormed : 12 + [(1 : Byte), 2, 3].length + [(1 : Byte), 2, 3].length % 2 ≤ 0xFFFFFFFF := by decide

theorem witness_RacedReadIsAHeldValue :
    raceValues converting 0x1000 = [] ∧ (withInput (.hostStore 0x1000 9) converting).inputs = .hostStore 0x1000 9 :: [] ∧
    ramPlatform.dmaCoherent = true ∧ converting.mem.wf = true ∧ inRegisterWindow ramPlatform 0x1000 = false ∧
    regionKind ramPlatform 0x1000 = .ram := by decide +kernel

/-- A host store and a host load of the file's last byte while the block is in WRITE. -/
theorem witness_RacedReadIsAHeldValue_write :
    (withInput (.hostStore 0x2002 5) writing).inputs = .hostStore 0x2002 5 :: [] ∧
    (withInput (.hostLoad 0x2002) writing).inputs = .hostLoad 0x2002 :: [] ∧ writing.phase = .write ∧ writing.platform.dmaCoherent = true ∧
    writing.mem.wf = true ∧ inRegisterWindow writing.platform 0x2002 = false ∧ regionKind writing.platform 0x2002 = .ram ∧
    fileByteAt writing 0x2002 = some 9 := by decide +kernel

/-- A store and its clean while the block is in CONVERT and in WRITE. -/
theorem witness_CleaningMakesAStoreVisible_raced :
    ∀ m ∈ [converting, writing],
      let s : State :=
        { m with platform := { ramPlatform with dmaCoherent := false }, inputs := [.hostStore 0x2002 5, .cacheClean 0x2002] }
      s.inputs = .hostStore 0x2002 5 :: .cacheClean 0x2002 :: [] ∧ s.mem.wf = true ∧ inRegisterWindow s.platform 0x2002 = false ∧
      regionKind s.platform 0x2002 = .ram ∧ (s.phase = .convert ∨ s.phase = .write) := by decide +kernel

/-- A load of an uncached byte, and a clean of an uncached, a clean and a dirty byte, on either kind of port. -/
theorem witness_CleaningMakesAStoreVisible_clean :
    cacheFind writing.hostCache 0x2002 = none ∧
    ∀ coherent ∈ [true, false], ∀ dirty ∈ [true, false],
      let l : HostLine := { addr := 0x2002, byte := 5, dirty := dirty }
      let s : State :=
        { writing with platform := { ramPlatform with dmaCoherent := coherent }, hostCache := [l], inputs := [.cacheClean 0x2002] }
      s.inputs = .cacheClean 0x2002 :: [] ∧ s.mem.wf = true ∧ inRegisterWindow s.platform 0x2002 = false ∧
      regionKind s.platform 0x2002 = .ram ∧ cacheFind s.hostCache (0x2002 : Word).toNat = some l := by decide +kernel

theorem witness_CleaningMakesAStoreVisible :
    let s : State :=
      { State.reset with platform := { ramPlatform with dmaCoherent := false }, inputs := [.hostStore 0xFFFFEFFF 9, .cacheClean 0xFFFFEFFF] }
    s.platform.dmaCoherent = false ∧ s.mem.wf = true ∧ inRegisterWindow s.platform 0xFFFFEFFF = false ∧
    regionKind s.platform 0xFFFFEFFF = .ram := by decide +kernel

/-- A store and a load after it, and an invalidate and a load after it, in WRITE, of the file's last byte. -/
theorem witness_CleaningMakesAStoreVisible_load :
    let s : State := { writing with platform := { ramPlatform with dmaCoherent := false } }
    ({ s with inputs := [.hostStore 0x2002 5, .hostLoad 0x2002] } : State).inputs = .hostStore 0x2002 5 :: .hostLoad 0x2002 :: [] ∧
    ({ s with inputs := [.cacheInvalidate 0x2002, .hostLoad 0x2002] } : State).inputs = .cacheInvalidate 0x2002 :: .hostLoad 0x2002 :: [] ∧
    s.platform.dmaCoherent = false ∧ inRegisterWindow s.platform 0x2002 = false ∧ regionKind s.platform 0x2002 = .ram ∧
    fileByteAt s 0x2002 = some 9 := by decide +kernel

/-- A load of a cached byte, dirty and clean. -/
theorem witness_CleaningMakesAStoreVisible_cached :
    ∀ dirty ∈ [true, false],
      let l : HostLine := { addr := 0x2002, byte := 5, dirty := dirty }
      let s : State :=
        { writing with platform := { ramPlatform with dmaCoherent := false }, hostCache := [l], inputs := [.hostLoad 0x2002] }
      s.inputs = .hostLoad 0x2002 :: [] ∧ s.platform.dmaCoherent = false ∧ inRegisterWindow s.platform 0x2002 = false ∧
      regionKind s.platform 0x2002 = .ram ∧ cacheFind s.hostCache (0x2002 : Word).toNat = some l := by decide +kernel

end Sys2Proof.Tests
end

section
/-! The invariant of the machine (10_state.md R44 to R51, R70; 45_rate_control.md R407, R409): every step keeps it, and reset meets it. -/

namespace Sys2Proof.Machine

/-! Reserved bits. -/

/-- A word is below `2 ^ n` exactly when its bits from `n` up are 0: how "reserved bits read 0" is stated of the model's words. -/
theorem toNat_lt_two_pow_iff (w : Word) (n : Nat) : w.toNat < 2 ^ n ↔ ∀ i, n ≤ i → w.getLsbD i = false := by
  constructor
  · intro h i hi
    exact Nat.testBit_lt_two_pow (h.trans_le (Nat.pow_le_pow_right (by decide) hi))
  · exact fun h => Nat.lt_pow_two_of_testBit _ h

/-- Setting a bit below `n` keeps the bits from `n` up at 0. -/
theorem setBit_toNat_lt {w : Word} {n : Nat} (h : w.toNat < 2 ^ n) {i : Nat} (hi : i < 32) (hin : i < n) (b : Bool) :
    (setBit w i b).toNat < 2 ^ n := by
  rw [toNat_lt_two_pow_iff] at h ⊢
  intro j hj
  rw [getLsbD_setBit w i hi, if_neg (by omega), h j hj]

/-- A number stored in a register does not grow. -/
theorem toNat_ofNat_le (n : Nat) : (BitVec.ofNat 32 n).toNat ≤ n := by
  rw [BitVec.toNat_ofNat]
  exact Nat.mod_le n _

theorem ctrlStored_toNat_lt (d : Word) : (ctrlStored d).toNat < 2 :=
  setBit_toNat_lt (n := 1) (by decide) (by decide) (by decide) _

/-- CTRL stores bit 0 of the data and nothing else (R44). -/
theorem ctrlStored_eq_and_one (d : Word) : ctrlStored d = d &&& 1 := by
  refine BitVec.eq_of_getLsbD_eq fun i _ => ?_
  rw [ctrlStored_getLsbD, BitVec.getLsbD_and, show (1 : Word) = 1#32 from rfl, BitVec.getLsbD_one]
  by_cases hi : i = 0 <;> simp [irqEnBit, hi]

section Status
variable {st : Word} (h : st.toNat < 32)
include h

theorem setBit_status_lt {i : Nat} (hi : i < 5) (b : Bool) : (setBit st i b).toNat < 32 :=
  setBit_toNat_lt (n := 5) h (by omega) hi b

theorem statusAccepted_lt : (statusAccepted st).toNat < 32 :=
  setBit_status_lt (setBit_status_lt (setBit_status_lt h (by decide) _) (by decide) _) (by decide) _

theorem statusCompleted_lt : (statusCompleted st).toNat < 32 :=
  setBit_status_lt (setBit_status_lt h (by decide) _) (by decide) _

theorem statusErrored_lt : (statusErrored st).toNat < 32 :=
  setBit_status_lt (setBit_status_lt (setBit_status_lt h (by decide) _) (by decide) _) (by decide) _

theorem statusCleared_lt : (statusCleared st).toNat < 32 :=
  setBit_status_lt (setBit_status_lt (setBit_status_lt (setBit_status_lt h (by decide) _) (by decide) _) (by decide) _)
    (by decide) _

end Status

/-- The codes of R460 are 1 to 5. -/
theorem errorNumber_range (code : ErrorCode) : errorNumber code ≠ 0 ∧ (errorNumber code).toNat ≤ 5 := by
  cases code <;> decide

/-! The register file: one lemma an update of the registers. -/

/-- The register invariant reads the registers and whether the block is idle, and nothing else of the state. -/
theorem RegsInv.of_sameRegs {s t : State} (h : RegsInv s) (hr : t.regs = s.regs) (hp : t.phase = .idle ↔ s.phase = .idle) :
    RegsInv t := by
  simpa only [RegsInv, exclusiveFlags, State.busy, State.done, State.err, hr, ne_eq, hp] using h

/-- While the block is not idle, BUSY is 1, so DONE and ERR are 0, and with them the error code and the results (R46 to R51, R70). -/
theorem RegsInv.running {s : State} (h : RegsInv s) (hp : s.phase ≠ .idle) :
    s.done = false ∧ s.err = false ∧ s.regs.errCode = 0 ∧ ResultsZero s.regs := by
  obtain ⟨_, _, _, _, _, hbusy, ⟨hbd, hbe, _⟩, herr, hres⟩ := h
  have hb : s.busy = true := hbusy.mpr hp
  have hd : s.done = false := Bool.eq_false_iff.mpr fun hd => hbd ⟨hb, hd⟩
  have he : s.err = false := Bool.eq_false_iff.mpr fun he => hbe ⟨hb, he⟩
  have hc : s.regs.errCode = 0 := not_not.mp fun hc => hbe ⟨hb, herr.mpr hc⟩
  exact ⟨hd, he, hc, hres hd⟩

/-- While BUSY is 0 the block is idle (R70). -/
theorem RegsInv.idle_of_not_busy {s : State} (h : RegsInv s) (hb : s.busy = false) : s.phase = .idle := by
  obtain ⟨_, _, _, _, _, hbusy, _⟩ := h
  exact not_not.mp fun hp => by simp [hbusy.mpr hp] at hb

theorem RegsInv.dropCommand {s : State} (h : RegsInv s) : RegsInv (dropCommand s) := by
  obtain ⟨hctrl, hstatus, hrest⟩ := h
  refine ⟨hctrl, setBit_status_lt hstatus (by decide) true, ?_⟩
  simpa [exclusiveFlags] using hrest

theorem RegsInv.flagBadCommand {s : State} (h : RegsInv s) : RegsInv (flagBadCommand s) := by
  obtain ⟨hctrl, hstatus, hrest⟩ := h
  refine ⟨hctrl, setBit_status_lt hstatus (by decide) true, ?_⟩
  simpa [exclusiveFlags] using hrest

theorem RegsInv.acknowledge {s : State} (h : RegsInv s) : RegsInv (acknowledge s) := by
  obtain ⟨hctrl, hstatus, _, _, _, hbusy, _⟩ := h
  exact ⟨hctrl, statusCleared_lt hstatus, by simp, by simp, by simp, by simpa using hbusy, by simp [exclusiveFlags], by simp, by simp⟩

theorem RegsInv.acceptEncode {s : State} (h : RegsInv s) (cfg : EncConfig) : RegsInv (acceptEncode cfg s) := by
  obtain ⟨hctrl, hstatus, _⟩ := h
  exact ⟨hctrl, statusAccepted_lt hstatus, by simp, by simp, by simp, by simp, by simp [exclusiveFlags], by simp, by simp⟩

/-- Error entry finds the results at 0, since it is taken while the block runs (R470). -/
theorem RegsInv.raiseError {s : State} (h : RegsInv s) (hp : s.phase ≠ .idle) (code : ErrorCode) : RegsInv (raiseError code s) := by
  obtain ⟨_, _, _, hout, hpay, hq, hk⟩ := h.running hp
  obtain ⟨hctrl, hstatus, _⟩ := h
  obtain ⟨hne, hle⟩ := errorNumber_range code
  exact ⟨hctrl, statusErrored_lt hstatus, hle, by simp [hq], by simp [hk], by simp, by simp [exclusiveFlags],
    iff_of_true (raiseError_err code s) hne,
    by simp [hout, hpay, hq, hk]⟩

/-- Completion finds ERR at 0, and reports an index below 128 and at most MAX_PASSES passes (R197, R407). -/
theorem RegsInv.complete {s : State} (h : RegsInv s) (hp : s.phase ≠ .idle) (hk : s.session.k ≤ Config.maxPasses) (best : PassResult) :
    RegsInv (complete best s) := by
  obtain ⟨_, herr, hcode, _⟩ := h.running hp
  obtain ⟨hctrl, hstatus, _⟩ := h
  have hq : (BitVec.ofNat 32 best.q.val).toNat < 128 := (toNat_ofNat_le best.q.val).trans_lt best.q.isLt
  have hpasses : (BitVec.ofNat 32 s.session.k).toNat ≤ 8 := (toNat_ofNat_le s.session.k).trans hk
  exact ⟨hctrl, statusCompleted_lt hstatus, by simp [hcode], hq, hpasses, by simp, by simp [exclusiveFlags, herr],
    by simp [herr, hcode], by simp⟩

/-- A register write changes no register of the invariant but CTRL, which stores one bit (R41, R44). -/
theorem RegsInv.writeOffset {s : State} (h : RegsInv s) (o : Offset) (d : Word) :
    RegsInv { s with regs := writeOffset o d s.regs } := by
  obtain ⟨hctrl, hrest⟩ := h
  obtain ⟨hst, hcode, hout, hq, hk, hpay⟩ := writeOffset_readOnly o d s.regs
  refine ⟨?_, by simpa only [exclusiveFlags, State.busy, State.done, State.err, hst, hcode, hout, hq, hk, hpay] using hrest⟩
  rcases writeOffset_ctrl o d s.regs with e | e
  · exact e ▸ hctrl
  · exact e ▸ ctrlStored_toNat_lt d

theorem RegsInv.of_reset {s : State} (hr : s.regs = Regs.reset) (hp : s.phase = .idle) : RegsInv s := by
  simp only [RegsInv, exclusiveFlags, State.busy, State.done, State.err, hr, hp]
  decide

/-! The search of the rate controller. -/

/-- The index lies in the search interval, and the interval in 0..127 (R409). -/
def InInterval (ses : Session) : Prop :=
  0 ≤ ses.lo ∧ ses.lo ≤ (ses.q.val : Int) ∧ (ses.q.val : Int) ≤ ses.hi ∧ ses.hi ≤ 127

/-- The search starts with the whole of 0..127 (R404). -/
theorem rateInit_inInterval (ses : Session) : InInterval (rateInit ses) := by
  have := (rateInit ses).q.isLt
  simp only [InInterval, rateInit_lo, rateInit_hi]
  omega

/-- Narrowing removes the index that was tried and stays inside 0..127 (R409). -/
theorem narrowed_bounds {lo hi : Int} (q : QIndex) (hlo : 0 ≤ lo) (hhi : hi ≤ 127) (size target : Nat) :
    0 ≤ (narrowed lo hi q size target).1 ∧ (narrowed lo hi q size target).2 ≤ 127 := by
  unfold narrowed
  split <;> constructor <;> simp only <;> omega

/-- The middle of an interval of 0..127 lies in it (R409). -/
theorem midIndex_mem {lo hi : Int} (hlo : 0 ≤ lo) (hle : lo ≤ hi) (hhi : hi ≤ 127) :
    lo ≤ ((midIndex lo hi).val : Int) ∧ ((midIndex lo hi).val : Int) ≤ hi := by
  simp only [midIndex, sar, Fin.val_ofNat, pow_one]
  omega

/-- With an index in the interval, the step after a pass stops, or has passes left and an index in the narrowed interval (R407, R409). -/
theorem rateStep_verdict {ses : Session} (h : InInterval ses) (r : PassResult) :
    (rateStep ses r).2 = .stop ∨
    (∃ q, (rateStep ses r).2 = .again q) ∧ ses.k + 1 < Config.maxPasses ∧ InInterval (rateStep ses r).1 := by
  obtain ⟨hlo, _, _, hhi⟩ := h
  simp only [rateStep]
  split
  · exact .inl rfl
  · split
    · exact .inl rfl
    · next hgo =>
      obtain ⟨hle, hk⟩ := not_or.mp hgo
      obtain ⟨hlo', hhi'⟩ := narrowed_bounds ses.q hlo hhi r.size ses.cfg.target.toNat
      obtain ⟨hml, hmh⟩ := midIndex_mem hlo' (not_lt.mp hle) hhi'
      exact .inr ⟨⟨_, rfl⟩, not_le.mp hk, hlo', hml, hmh, hhi'⟩

/-! The transitions of the block. -/

/-- The whole invariant reads the registers, the phase and the session, and nothing else of the state. -/
theorem MachineInv.of_sameBlock {s t : State} (h : MachineInv s) (hr : t.regs = s.regs) (hp : t.phase = s.phase)
    (hs : t.session = s.session) : MachineInv t := by
  obtain ⟨hregs, hrate, hcfg⟩ := h
  refine ⟨hregs.of_sameRegs hr (by rw [hp]), ?_, ?_⟩
  · simpa only [RateInv, hp, hs] using hrate
  · simpa only [ConfigInv, hp, hs] using hcfg

/-- Outside CONVERT, PASS and WRITE only the registers matter: nothing of the session is read there. -/
theorem MachineInv.of_regsInv {s : State} (h : RegsInv s) (hp : s.phase = .idle ∨ s.phase = .check) : MachineInv s := by
  refine ⟨h, ?_⟩
  rcases hp with hp | hp <;> simp [RateInv, ConfigInv, hp]

theorem MachineInv.of_reset {s : State} (hr : s.regs = Regs.reset) (hp : s.phase = .idle) : MachineInv s :=
  .of_regsInv (.of_reset hr hp) (.inl hp)

theorem MachineInv.raiseError {s : State} (h : MachineInv s) (hp : s.phase ≠ .idle) (code : ErrorCode) :
    MachineInv (raiseError code s) :=
  .of_regsInv (h.1.raiseError hp code) (.inl rfl)

/-- A move from one running phase to another keeps the invariant when the session meets the new phase's part of it. -/
theorem MachineInv.of_move {s t : State} (h : MachineInv s) (hp : s.phase ≠ .idle) (hr : t.regs = s.regs) (hp' : t.phase ≠ .idle)
    (hrate : RateInv t) (hcfg : checkConfig t.session.cfg = none) : MachineInv t :=
  ⟨h.1.of_sameRegs hr (by simp [hp, hp']), hrate, fun _ => hcfg⟩

theorem MachineInv.stepCheck {s t : State} (h : MachineInv s) (hp : s.phase = .check) (hst : stepCheck s = .next t) :
    MachineInv t := by
  have hrun : s.phase ≠ .idle := by simp [hp]
  rcases stepCheck_cases hst with ⟨code, _, rfl⟩ | ⟨hcfg, _, rfl⟩
  · exact h.raiseError hrun code
  · exact h.of_move hrun rfl (by simp) (by simp [RateInv]) hcfg

theorem MachineInv.stepConvert {s t : State} (h : MachineInv s) (hp : s.phase = .convert) (hst : stepConvert s = .next t) :
    MachineInv t := by
  rcases stepConvert_cases hst with ⟨_, rfl⟩ | ⟨_, rfl⟩
  · refine h.of_move (by simp [hp]) rfl (by simp) ⟨fun _ => ⟨?_, ?_⟩, by simp⟩ (h.2.2 (.inl hp))
    · exact (by decide : 0 < Config.maxPasses)
    · exact rateInit_inInterval _
  · exact h

theorem MachineInv.stepPass {s t : State} (h : MachineInv s) (hp : s.phase = .pass) (hst : stepPass s = .next t) :
    MachineInv t := by
  have hrun : s.phase ≠ .idle := by simp [hp]
  rcases stepPass_cases hst with ⟨_, rfl⟩ | ⟨_, rfl⟩
  · exact h.raiseError hrun _
  · have ⟨_, ⟨hpass, _⟩, hcfg⟩ := h
    obtain ⟨hk, hin⟩ := hpass hp
    have hcfg' := hcfg (.inr (.inl hp))
    obtain ⟨ecfg, _, _, _, ek, ebest⟩ := rateStep_keeps (runPass s.session) (runPass s.session).result
    rw [runPass_cfg] at ecfg
    rw [runPass_k] at ek
    have hin' : InInterval (runPass s.session) := hin
    rcases rateStep_verdict hin' (runPass s.session).result with hv | ⟨⟨q, hv⟩, hk', hnext⟩
    · refine h.of_move hrun rfl (by simp [hv, phaseAfter]) ⟨by simp [hv, phaseAfter], fun _ => ⟨?_, ?_, ?_⟩⟩ (ecfg ▸ hcfg')
      · exact ek ▸ Nat.le_add_left 1 _
      · exact ek ▸ hk
      · exact ebest ▸ Option.some_ne_none _
    · refine h.of_move hrun rfl (by simp [hv, phaseAfter]) ⟨fun _ => ⟨?_, hnext⟩, by simp [hv, phaseAfter]⟩ (ecfg ▸ hcfg')
      exact ek ▸ hk'

theorem MachineInv.stepWrite {s t : State} (h : MachineInv s) (hp : s.phase = .write) (hst : stepWrite s = .next t) :
    MachineInv t := by
  have hrun : s.phase ≠ .idle := by simp [hp]
  obtain ⟨best, _, ⟨_, rfl⟩ | ⟨_, rfl | rfl⟩⟩ := stepWrite_cases hst
  · exact h.raiseError hrun _
  · obtain ⟨hregs, ⟨_, hwrite⟩, _⟩ := h
    obtain ⟨_, hk, _⟩ := hwrite hp
    have hwritten : RegsInv { s with mem := writeCells s.mem (writtenCells s best.file), freeCount := s.freeCount + 1 } :=
      hregs.of_sameRegs rfl Iff.rfl
    exact .of_regsInv (hwritten.complete hrun hk best) (.inl rfl)
  · exact h

theorem MachineInv.stepBlock {s t : State} (h : MachineInv s) (hst : stepBlock s = .next t) : MachineInv t := by
  rcases stepBlock_cases hst with ⟨_, rfl⟩ | ⟨hp, hst⟩ | ⟨hp, hst⟩ | ⟨hp, hst⟩ | ⟨hp, hst⟩
  · exact h
  · exact h.stepCheck hp hst
  · exact h.stepConvert hp hst
  · exact h.stepPass hp hst
  · exact h.stepWrite hp hst

/-! The instructions and the host's own accesses. -/

theorem MachineInv.exec {s t : State} (h : MachineInv s) {i : Instr} (hx : exec i s = .next t) : MachineInv t := by
  have hregs := h.1
  rcases exec_cases hx with rfl | rfl | rfl | rfl | ⟨cfg, hb, rfl⟩ | ⟨o, rfl⟩ | ⟨o, d, rfl⟩
  · exact h
  · exact ⟨hregs.dropCommand, h.2⟩
  · exact ⟨hregs.flagBadCommand, h.2⟩
  · exact ⟨hregs.acknowledge, h.2⟩
  · exact .of_regsInv (hregs.acceptEncode cfg) (.inr rfl)
  · exact h.of_sameBlock rfl rfl rfl
  · exact ⟨hregs.writeOffset o d, h.2⟩

/-- Settles O32: the invariant is kept by each case of a step, the block's own move, an instruction, the reset input and the host's four accesses
of its memory. -/
theorem machineInvIsKept : Obligations.MachineInvIsKept := by
  intro s t h hst
  rcases step_cases hst with ⟨_, hb⟩ | ⟨rest, hcase⟩
  · exact h.stepBlock hb
  have h' : MachineInv { s with inputs := rest } := h.of_sameBlock rfl rfl rfl
  rcases hcase with ⟨_, hb⟩ | ⟨_, _, _, _, hx⟩ | ⟨_, rfl⟩ | ⟨a, b, _, rfl⟩ | ⟨a, _, rfl⟩ | ⟨a, _, rfl⟩ | ⟨a, _, rfl⟩
  · exact h'.stepBlock hb
  · exact h'.exec hx
  · exact .of_reset rfl rfl
  · obtain ⟨hr, hp, hs⟩ := storeEffect_block a.toNat b { s with inputs := rest }
    exact h'.of_sameBlock hr hp hs
  · obtain ⟨hr, hp, hs, _⟩ := loadEffect_block a.toNat { s with inputs := rest }
    exact h'.of_sameBlock hr hp hs
  · obtain ⟨hr, hp, hs⟩ := cleanEffect_block a.toNat { s with inputs := rest }
    exact h'.of_sameBlock hr hp hs
  · exact h'.of_sameBlock rfl rfl rfl

/-- Settles O33: at reset no phase runs, so the parts about the rate controller, the snapshot and the kept result hold of no phase. -/
theorem invariantsHoldAtReset : Obligations.InvariantsHoldAtReset := by
  have hbest : BestInv State.reset := by simp [BestInv, State.reset]
  exact ⟨rfl, .of_reset rfl rfl, hbest⟩

/-! Reset and CTRL. -/

/-- Settles O1: the table of R71, register by register. -/
theorem resetState : Obligations.ResetState := by
  refine ⟨fun r => ?_, rfl, rfl⟩
  cases r <;> rfl

/-- A write at CTRL's offset (R44, R141). -/
theorem exec_wr_ctrl (d : Word) (s : State) : exec (.wr 0x04 d) s = .next { s with regs := { s.regs with ctrl := ctrlStored d } } := rfl

/-- A read at CTRL's offset (R44, R141). -/
theorem exec_rd_ctrl (s : State) : exec (.rd 0x04) s = .next { s with busData := s.regs.ctrl } := rfl

/-- Settles O5: a write stores the enable bit alone, which the next read returns and the line of R480 is gated by. -/
theorem ctrlHasOneBit : Obligations.CtrlHasOneBit := by
  refine ⟨rfl, fun s d => ⟨_, exec_wr_ctrl d s, ?_, ?_⟩⟩
  · rw [exec_rd_ctrl, ctrlStored_eq_and_one]
  · have hen : (ctrlStored d).getLsbD irqEnBit = d.getLsbD irqEnBit := by simp
    simp only [State.irq, State.irqEn, hen]
    rfl

end Sys2Proof.Machine
end

section
/-! What CONVERT leaves in the planes (10_state.md R61; 41_color_transform.md R221, R222, R225, R226). -/

namespace Sys2Proof.Machine

/-! Planes. -/

/-- An entry inside a list made from the numbers below its length. -/
theorem getD_map_range {α : Type} (f : Nat → α) {n i : Nat} (hi : i < n) (d : α) : ((List.range n).map f).getD i d = f i := by
  rw [List.getD_eq_getElem _ _ (by simpa using hi)]
  simp

/-- A sample inside a plane (R15). -/
theorem planeAt_planeOf {h w y x : Nat} (f : Nat → Nat → Byte) (hy : y < h) (hx : x < w) : planeAt (planeOf h w f) y x = f y x := by
  rw [planeAt, planeOf, getD_map_range _ hy, getD_map_range _ hx]

/-- A plane has the rows and columns it is made with. -/
theorem planeOf_sized (h w : Nat) (f : Nat → Nat → Byte) : Sized (planeOf h w f) h w := by
  refine ⟨by simp [planeOf], fun row hrow => ?_⟩
  obtain ⟨y, _, rfl⟩ := List.mem_map.mp hrow
  simp

/-! Source samples. -/

/-- With no racing store a source byte is the byte in memory (R117, R520). -/
theorem sourceByte_of_no_race {s : State} (h : s.srcRace = []) (a : Word) : sourceByte s a = readByte s.mem a.toNat := by
  have hold : raceValues s a.toNat = [] := by simp [raceValues, h]
  unfold sourceByte
  rw [hold]

/-- The replicated sample is the pixel at the nearest position inside the image (R222). -/
theorem px_readSource (s : State) {c : EncConfig} (hw : 0 < c.w) (hh : 0 < c.h) (x y : Nat) :
    px (readSource s c) c.w c.h x y = readPixel s c (min x (c.w - 1)) (min y (c.h - 1)) := by
  rw [px, readSource, getD_map_range _ (by omega), getD_map_range _ (by omega)]

/-- A snapshot that passes CHECK has a width and a height of at least 1 (60_exceptions.md R461). -/
theorem dimensions_pos {c : EncConfig} (h : checkConfig c = none) : 0 < c.w ∧ 0 < c.h := by
  have hdim : badDimensions c = false := by
    unfold checkConfig at h
    split at h
    · cases h
    · next hdim => simpa using hdim
  simp only [badDimensions, Bool.or_eq_false_iff, decide_eq_false_iff_not] at hdim
  obtain ⟨⟨⟨hw, hh⟩, _⟩, _⟩ := hdim
  simp only [EncConfig.w, EncConfig.h]
  omega

/-- A sample of the padded chroma plane is the conversion of the group at the nearest position of the plane proper (R226). -/
theorem planeAt_chromaPlane (conv : List Rgb → Byte) (samples : List (List Rgb)) {c : EncConfig} (hw : 0 < c.w) (hh : 0 < c.h)
    {y x : Nat} (hy : y < c.ph / 2) (hx : x < c.pw / 2) :
    planeAt (chromaPlane conv samples c) y x =
      conv (chromaGroup samples c.w c.h (min x (c.cw - 1)) (min y (c.ch - 1))) := by
  have hcw : min x (c.cw - 1) < c.cw := by simp only [EncConfig.cw]; omega
  have hch : min y (c.ch - 1) < c.ch := by simp only [EncConfig.ch]; omega
  rw [chromaPlane, planeAt_planeOf _ hy hx, chromaProper, planeAt_planeOf _ hch hcw]

/-! The transition. -/

/-- Ordinary memory admits every access (20_memory.md R109, R110). -/
theorem admitted_of_ram {p : Platform} {addrs : List Word} (h : ∀ a ∈ addrs, regionKind p a = .ram) : admitted p addrs = true :=
  List.all_eq_true.mpr fun a ha => by rw [h a ha]; rfl

/-- With no input pending, a CONVERT whose accesses are admitted fills the planes and starts the rate controller (R191). -/
theorem step_convert {s : State} (hp : s.phase = .convert) (hi : s.inputs = [])
    (ha : admitted s.platform (sourceRegion s.session.cfg) = true) :
    step s = .next { s with session := rateInit (convertPlanes s s.session), phase := .pass, freeCount := s.freeCount + 1 } := by
  have hblock : stepBlock s = stepConvert s := by simp only [stepBlock, hp]
  rw [step_of_no_input hi, hblock, stepConvert, if_pos ha]

/-- Settles O37: the sizes are those the planes are made with, and each sample is the conversion of replicated pixels, which with no race are
read from memory. -/
theorem convertBuildsThePlanes : Obligations.ConvertBuildsThePlanes := by
  intro s hphase hin hrace hcfg hram c at' pixel group
  obtain ⟨hw, hh⟩ := dimensions_pos hcfg
  have hpx : ∀ x y, px (readSource s c) c.w c.h x y = pixel x y := fun x y => by
    rw [px_readSource s hw hh]
    simp only [readPixel, sourceByte_of_no_race hrace]
    rfl
  have hgroup : ∀ x y, chromaGroup (readSource s c) c.w c.h x y = group x y := fun x y => by
    simp only [chromaGroup, hpx]
    rfl
  refine ⟨⟨rfl, rfl, rfl, rfl, rfl, rfl⟩, _, step_convert hphase hin (admitted_of_ram hram), rfl, rfl, rfl,
    planeOf_sized _ _ _, planeOf_sized _ _ _, planeOf_sized _ _ _, ?_, ?_,
    rfl, rfl, rfl, rfl, rfl, rfl, rfl, rfl, rfl, rfl, rfl, rfl, rfl, rfl⟩
  · intro y hy x hx
    exact (planeAt_planeOf _ hy hx).trans (congrArg yConv (hpx x y))
  · intro y hy x hx
    rw [← hgroup]
    exact ⟨planeAt_chromaPlane uConv4 _ hw hh hy hx, planeAt_chromaPlane vConv4 _ hw hh hy hx⟩

end Sys2Proof.Machine
end

section
/-! The probabilities a frame is coded with (10_state.md R66; 44_entropy_coder.md R341, R371 to R373). -/

namespace Sys2Proof.Machine

/-! Entries of the table. -/

/-- A probability that `put` takes (R341). -/
def LegalProb (p : Nat) : Prop := 1 ≤ p ∧ p ≤ 255

theorem defaultCoefProb_legal (t b k n : Nat) : LegalProb (Config.defaultCoefProb t b k n) :=
  ⟨Nat.le_add_left 1 _, (Config.defaultCoefProbLess1 t b k n).isLt⟩

theorem coefUpdateProb_legal (t b k n : Nat) : LegalProb (Config.coefUpdateProb t b k n) :=
  ⟨Nat.le_add_left 1 _, (Config.coefUpdateProbLess1 t b k n).isLt⟩

theorem newProb_legal (c : NodeCount) : LegalProb (newProb c) := by
  unfold newProb LegalProb
  generalize c.ones * 255 / c.total = x
  omega

/-- The probability of entry `i` as a number: the adapted one where a boolean was counted, else the default one (R371, R373). -/
def codingProb (counts : List NodeCount) (i : Nat) : Nat :=
  if 0 < (countAt counts i).total then newProb (countAt counts i) else atNode Config.defaultCoefProb i

theorem codingProb_legal (counts : List NodeCount) (i : Nat) : LegalProb (codingProb counts i) := by
  unfold codingProb
  split
  · exact newProb_legal _
  · exact defaultCoefProb_legal _ _ _ _

/-- The table holds each entry in a byte, unchanged. -/
theorem codingProb_toNat (counts : List NodeCount) (i : Nat) : (BitVec.ofNat 8 (codingProb counts i)).toNat = codingProb counts i := by
  have := codingProb_legal counts i
  rw [BitVec.toNat_ofNat, Nat.mod_eq_of_lt (by unfold LegalProb at this; omega)]

theorem codingProbs_eq (counts : List NodeCount) :
    codingProbs counts = (List.range nodeTotal).map fun i => BitVec.ofNat 8 (codingProb counts i) := rfl

theorem codingProbs_length (counts : List NodeCount) : (codingProbs counts).length = nodeTotal := by simp [codingProbs_eq]

theorem codingProbs_getD (counts : List NodeCount) {i : Nat} (hi : i < nodeTotal) (d : Byte) :
    ((codingProbs counts).getD i d).toNat = codingProb counts i := by
  rw [codingProbs_eq, getD_map_range _ hi, codingProb_toNat]

theorem codingProbs_mem_pos (counts : List NodeCount) : ∀ p ∈ codingProbs counts, 1 ≤ p.toNat := by
  intro p hp
  obtain ⟨i, _, rfl⟩ := List.mem_map.mp hp
  exact (codingProb_toNat counts i).symm ▸ (codingProb_legal counts i).1

/-- The place of an entry of the table (R372). -/
theorem nodeIndex_lt {t b k n : Nat} (ht : t < 4) (hb : b < 8) (hk : k < 3) (hn : n < 11) : nodeIndex t b k n < nodeTotal := by
  unfold nodeIndex nodeTotal
  omega

/-- The entry at its place is the entry of its four indices (R372). -/
theorem atNode_nodeIndex {α : Type} (f : Nat → Nat → Nat → Nat → α) {t b k n : Nat} (hb : b < 8) (hk : k < 3) (hn : n < 11) :
    atNode f (nodeIndex t b k n) = f t b k n := by
  have h1 : nodeIndex t b k n / 264 = t := by unfold nodeIndex; omega
  have h2 : nodeIndex t b k n / 33 % 8 = b := by unfold nodeIndex; omega
  have h3 : nodeIndex t b k n / 11 % 3 = k := by unfold nodeIndex; omega
  have h4 : nodeIndex t b k n % 11 = n := by unfold nodeIndex; omega
  rw [atNode, h1, h2, h3, h4]

theorem typeIndex_lt (t : BlockType) : typeIndex t < 4 := by cases t <;> decide

/-! The booleans of the first partition. -/

/-- Booleans that may all be put (R341). -/
def LegalBools (bs : List (Nat × Bool)) : Prop := ∀ b ∈ bs, LegalProb b.1

theorem LegalBools.append {as bs : List (Nat × Bool)} (ha : LegalBools as) (hb : LegalBools bs) : LegalBools (as ++ bs) :=
  List.forall_mem_append.mpr ⟨ha, hb⟩

theorem LegalBools.flatMap {α : Type} {f : α → List (Nat × Bool)} {l : List α} (h : ∀ a ∈ l, LegalBools (f a)) :
    LegalBools (l.flatMap f) := by
  intro b hb
  obtain ⟨a, ha, hba⟩ := List.mem_flatMap.mp hb
  exact h a ha b hba

theorem litBools_legal (v n : Nat) : LegalBools (litBools v n) := by
  intro b hb
  obtain ⟨i, _, rfl⟩ := List.mem_map.mp hb
  exact (by decide : 1 ≤ 128 ∧ 128 ≤ 255)

theorem headerBools_legal (q : QIndex) : LegalBools (headerBools q) := by
  unfold headerBools
  repeat' apply LegalBools.append
  all_goals exact litBools_legal _ _

theorem updateBools_legal (counts : List NodeCount) : LegalBools (updateBools counts) := by
  refine .flatMap fun i _ => List.forall_mem_cons.mpr ⟨coefUpdateProb_legal _ _ _ _, ?_⟩
  split
  · exact litBools_legal _ _
  · exact List.forall_mem_nil _

theorem modeBools_legal (m : MbRecord) : LegalBools (modeBools m) := by
  unfold modeBools LegalBools LegalProb
  cases m.ymode <;> cases m.uvmode <;> decide

theorem firstPartitionBools_legal (q : QIndex) (counts : List NodeCount) (mbs : List MbRecord) :
    LegalBools (firstPartitionBools q counts mbs) :=
  (((headerBools_legal q).append (updateBools_legal counts)).append (litBools_legal 0 1)).append
    (.flatMap fun m _ => modeBools_legal m)

/-! The booleans of a token walk. -/

/-- A token boolean of fixed probability has a legal one; a tree boolean takes its probability from the table. -/
def TokenBool.LegalFixed : TokenBool → Prop
  | .fixed p _ => LegalProb p
  | .node _ _ _ _ _ => True

/-- A walk whose fixed booleans may all be put. -/
def LegalWalk (toks : List TokenBool) : Prop := ∀ x ∈ toks, x.LegalFixed

theorem LegalWalk.append {as bs : List TokenBool} (ha : LegalWalk as) (hb : LegalWalk bs) : LegalWalk (as ++ bs) :=
  List.forall_mem_append.mpr ⟨ha, hb⟩

theorem LegalWalk.node {t : BlockType} {b : Fin 8} {k : Fin 3} {n : Fin 11} {bit : Bool} {toks : List TokenBool} (h : LegalWalk toks) :
    LegalWalk (.node t b k n bit :: toks) :=
  List.forall_mem_cons.mpr ⟨trivial, h⟩

theorem LegalWalk.nil : LegalWalk [] := List.forall_mem_nil _

theorem extraBools_legal (base : Nat) {pcat : List Nat} (h : ∀ p ∈ pcat, LegalProb p) (v : Nat) :
    LegalWalk (extraBools base pcat v) := by
  intro x hx
  obtain ⟨j, hj, rfl⟩ := List.mem_mapIdx.mp hx
  exact h _ (List.getElem_mem hj)

/-- The probabilities of the six categories are legal (R352). -/
theorem extraBits_legal (v : Nat) : LegalWalk (extraBits v) := by
  unfold extraBits
  split_ifs <;> exact extraBools_legal _ (by unfold LegalProb; decide) v

theorem codeMagnitude_legal (t : BlockType) (b : Fin 8) (k : Fin 3) (v : Nat) : LegalWalk (codeMagnitude t b k v) := by
  have hx := extraBits_legal v
  simp only [codeMagnitude]
  split_ifs
  · exact LegalWalk.nil.node
  · exact LegalWalk.nil.node.node.node
  · exact LegalWalk.nil.node.node.node.node
  · exact hx.node.node.node.node
  · exact hx.node.node.node.node.node
  · exact hx.node.node.node.node.node

theorem walkFrom_legal (t : BlockType) (zs : List Int) (i : Nat) (k : Fin 3) (skipEob : Bool) :
    LegalWalk (walkFrom t zs i k skipEob) := by
  induction zs generalizing i k skipEob with
  | nil =>
    unfold walkFrom
    split
    · exact .nil
    · exact LegalWalk.nil.node
  | cons z zs ih =>
    have hsign : LegalWalk [.fixed 128 (decide (z < 0))] := List.forall_mem_singleton.mpr ⟨by decide, by decide⟩
    unfold walkFrom
    refine .append ?_ ?_
    · split
      · exact .nil
      · exact LegalWalk.nil.node
    · split
      · exact (ih _ _ _).node
      · exact (((codeMagnitude_legal t _ k _).node.append hsign).append (ih _ _ _))

theorem walkBlock_legal (t : BlockType) (lv : List Int) (k : Fin 3) : LegalWalk (walkBlock t lv k).1 :=
  walkFrom_legal t _ _ k false

theorem walkGrid_legal (t : BlockType) (n : Nat) (blocks : List (List Int)) (b : Nat) (above left : List Bool) :
    LegalWalk (walkGrid t n blocks b above left).1 := by
  induction blocks generalizing b above left with
  | nil => exact .nil
  | cons lv rest ih => exact (walkBlock_legal t lv _).append (ih _ _ _)

theorem walkMb_legal (m : MbRecord) (c : Nat) (x : Contexts) : LegalWalk (walkMb m c x).1 :=
  (((walkBlock_legal _ _ _).append (walkGrid_legal _ _ _ _ _ _)).append (walkGrid_legal _ _ _ _ _ _)).append
    (walkGrid_legal _ _ _ _ _ _)

theorem walkMbs_legal (mbw : Nat) (mbs : List MbRecord) (i : Nat) (x : Contexts) : LegalWalk (walkMbs mbw mbs i x).1 := by
  induction mbs generalizing i x with
  | nil => exact .nil
  | cons m ms ih => exact (walkMb_legal m _ _).append (ih _ _)

/-- The fixed booleans of a frame's walk have legal probabilities (R350, R352). -/
theorem walkFrame_legal (mbw : Nat) (mbs : List MbRecord) : LegalWalk (walkFrame mbw mbs).1 := walkMbs_legal mbw mbs 0 _

/-! The token partition. -/

/-- A tree boolean is coded at its entry of the table, whatever the lookup's default: every entry has its place (R372, R373). -/
theorem tokenProb_node (counts : List NodeCount) (t : BlockType) (b : Fin 8) (k : Fin 3) (n : Fin 11) (bit : Bool) (d : Byte) :
    tokenProb (codingProbs counts) (.node t b k n bit) =
      (((codingProbs counts).getD (nodeIndex (typeIndex t) b.val k.val n.val) d).toNat, bit) := by
  have hi := nodeIndex_lt (typeIndex_lt t) b.isLt k.isLt n.isLt
  simp only [tokenProb, codingProbs_getD counts hi]

theorem tokenProb_legal (counts : List NodeCount) {x : TokenBool} (hx : x.LegalFixed) :
    LegalProb (tokenProb (codingProbs counts) x).1 := by
  cases x with
  | fixed p bit => exact hx
  | node t b k n bit =>
    have hi := nodeIndex_lt (typeIndex_lt t) b.isLt k.isLt n.isLt
    rw [tokenProb, codingProbs_getD counts hi]
    exact codingProb_legal counts _

/-- The table of a pass is that of its own counts (R373, R390). -/
theorem codeFrame_probs (mbw : Nat) (q : QIndex) (mbs : List MbRecord) :
    (codeFrame mbw q mbs).probs = codingProbs (codeFrame mbw q mbs).counts := by
  simp only [codeFrame]

/-- The token partition of a pass is the flush of the walk's booleans, coded with the table of the pass (R390). -/
theorem codeFrame_e2_out (mbw : Nat) (q : QIndex) (mbs : List MbRecord) :
    (codeFrame mbw q mbs).e2.out =
      flushBytes (putAll BoolEnc.init ((walkFrame mbw mbs).1.map (tokenProb (codeFrame mbw q mbs).probs))) := by
  simp only [codeFrame, flushEnc]

/-- Settles O52: the table's entries from `codingProb`, the booleans of the two partitions from the lists they are made of. -/
theorem probabilitiesAreLegal : Obligations.ProbabilitiesAreLegal := by
  intro mbw q mbs c
  have hc : c.probs = codingProbs c.counts := codeFrame_probs mbw q mbs
  rw [hc]
  refine ⟨codingProbs_length _, codingProbs_mem_pos _, firstPartitionBools_legal q c.counts mbs, ?_, ?_, ?_⟩
  · intro b hb
    obtain ⟨x, hx, rfl⟩ := List.mem_map.mp hb
    exact tokenProb_legal c.counts (walkFrame_legal mbw mbs x hx)
  · intro t b k n x
    have hentry := codingProbs_getD c.counts (nodeIndex_lt t.isLt b.isLt k.isLt n.isLt) 0
    rw [codingProb, atNode_nodeIndex _ b.isLt k.isLt n.isLt] at hentry
    exact hentry
  · have hout := codeFrame_e2_out mbw q mbs
    rw [codeFrame_probs] at hout
    refine hout.trans (congrArg (fun bs => flushBytes (putAll BoolEnc.init bs)) (List.map_congr_left fun x _ => ?_))
    cases x with
    | fixed p bit => rfl
    | node t b k n bit => exact tokenProb_node c.counts t b k n bit 0

end Sys2Proof.Machine
end

section
/-! The register window and the host's accesses of its memory (20_memory.md R100, R106, R109, R113, R119). -/

namespace Sys2Proof.Machine

/-! Accesses that are refused. -/

/-- A read that is narrow or misaligned carries no instruction (R106). -/
theorem decode_read_unsupported {o : Offset} {n : Nat} (h : n ≠ 4 ∨ o.toNat % 4 ≠ 0) : ∃ e, decode (.read o n) = .rejected e := by
  by_cases hn : n = 4
  · have ho : alignedOffset o = false := beq_false_of_ne (h.resolve_left (not_not.mpr hn))
    exact ⟨.misalignedAccess, by simp [decode, hn, ho]⟩
  · exact ⟨.notWordAccess, by simp [decode, hn]⟩

/-- A write that is narrow or misaligned carries no instruction (R106). -/
theorem decode_write_unsupported {o : Offset} {bytes : List Byte} (h : bytes.length ≠ 4 ∨ o.toNat % 4 ≠ 0) :
    ∃ e, decode (.write o bytes) = .rejected e := by
  by_cases hn : bytes.length = 4
  · have ho : alignedOffset o = false := beq_false_of_ne (h.resolve_left (not_not.mpr hn))
    exact ⟨.misalignedAccess, by simp [decode, hn, ho]⟩
  · exact ⟨.notWordAccess, by simp [decode, hn]⟩

/-- A step whose access carries no instruction is refused (R106). -/
theorem step_bus_rejected {s : State} {rest : List Input} {a : BusAccess} {e : DecodeError} (h : s.inputs = .bus a :: rest)
    (hd : decode a = .rejected e) : step s = .refused (refusalOf e) := by
  simp only [step, h, busStep, hd]

/-- A host access of the register window is a narrow one (R100, R106; logs 7, 26). -/
theorem onRam_window {s : State} {a : Word} (f : State → State) (h : inRegisterWindow s.platform a = true) :
    onRam a f s = .refused .narrowRegisterAccess := by
  rw [onRam, if_pos h]

/-- A host access outside the window where there is no ordinary memory (log 26). -/
theorem onRam_elsewhere {s : State} {a : Word} (f : State → State) (hw : inRegisterWindow s.platform a = false)
    (hr : regionKind s.platform a ≠ .ram) : onRam a f s = .refused .hostAccessOutsideRam := by
  rw [onRam, hw, if_neg Bool.false_ne_true]
  split
  · next h => exact absurd h hr
  · rfl
  · rfl

/-- A host access of ordinary memory has its effect. -/
theorem onRam_ram {s : State} {a : Word} (f : State → State) (hw : inRegisterWindow s.platform a = false)
    (hr : regionKind s.platform a = .ram) : onRam a f s = .next (f s) := by
  simp [onRam, hw, hr]

/-! The steps that take an access of the host's memory. -/

section HostSteps
variable {s : State} {a : Word} {b : Byte} {rest : List Input}

theorem step_hostStore (h : s.inputs = .hostStore a b :: rest) :
    step s = onRam a (storeEffect a.toNat b) { s with inputs := rest } := by
  simp only [step, h, hostStore]

theorem step_hostLoad (h : s.inputs = .hostLoad a :: rest) : step s = onRam a (loadEffect a.toNat) { s with inputs := rest } := by
  simp only [step, h, hostLoad]

theorem step_cacheClean (h : s.inputs = .cacheClean a :: rest) :
    step s = onRam a (cleanEffect a.toNat) { s with inputs := rest } := by
  simp only [step, h, cacheClean]

theorem step_cacheInvalidate (h : s.inputs = .cacheInvalidate a :: rest) :
    step s = onRam a (invalidateEffect a.toNat) { s with inputs := rest } := by
  simp only [step, h, cacheInvalidate]

/-- The four accesses of the host's memory reach it through the same gate. -/
theorem step_host_onRam {x : Input} (h : s.inputs = x :: rest)
    (hx : x ∈ [.hostStore a b, .hostLoad a, .cacheClean a, .cacheInvalidate a]) :
    ∃ f, step s = onRam a f { s with inputs := rest } := by
  simp only [List.mem_cons, List.not_mem_nil, or_false] at hx
  rcases hx with rfl | rfl | rfl | rfl
  · exact ⟨_, step_hostStore h⟩
  · exact ⟨_, step_hostLoad h⟩
  · exact ⟨_, step_cacheClean h⟩
  · exact ⟨_, step_cacheInvalidate h⟩

end HostSteps

/-- Settles O7: the decoder rejects narrow and misaligned accesses and no others, and the host's own accesses pass one gate. -/
theorem unsupportedAccessRefused : Obligations.UnsupportedAccessRefused := by
  refine ⟨fun s rest o n h hbad => ?_, fun s rest o bytes h hbad => ?_, fun s o d ho => ?_, fun o bytes hl ho => ?_,
    fun s rest a b x h hx => ?_⟩
  · obtain ⟨e, he⟩ := decode_read_unsupported hbad
    exact ⟨_, step_bus_rejected h he⟩
  · obtain ⟨e, he⟩ := decode_write_unsupported hbad
    exact ⟨_, step_bus_rejected h he⟩
  · have hal : alignedOffset o = false := beq_false_of_ne ho
    constructor
    · simp [exec, execRd, hal]
    · simp [exec, execWr, hal]
  · have hal : alignedOffset o = true := beq_iff_eq.mpr ho
    constructor
    · simp [decode, hal]
    · exact ⟨decodeWrite o (BitVec.ofNat 32 (leValue bytes)), by simp [decode, hl, hal]⟩
  · obtain ⟨f, hf⟩ := step_host_onRam h hx
    refine ⟨fun hin => ?_, fun hout hr => ?_⟩
    · exact hf.trans (onRam_window f ((inRegisterWindow_iff _ _).mpr hin))
    · exact hf.trans (onRam_elsewhere f (decide_eq_false (not_lt.mpr hout)) hr)

/-! The regions of an encode and the register window. -/

/-- Distances from a base add up (R104). -/
theorem addrPlus_addrPlus (base : Word) (m n : Nat) : addrPlus (addrPlus base m) n = addrPlus base (m + n) := by
  simp only [addrPlus, BitVec.ofNat_add, BitVec.add_assoc]

/-- The source region row by row: the `4 * W` bytes from the row's first on (R103, R112). -/
theorem mem_sourceRegion_iff (c : EncConfig) (a : Word) :
    a ∈ sourceRegion c ↔ ∃ y < c.h, ∃ i < 4 * c.w, addrPlus (sourceAddr c 0 y 0) i = a := by
  simp only [sourceRegion, sourceAddr, addrPlus_addrPlus, List.mem_flatMap, List.mem_map, List.mem_range, Nat.mul_zero, Nat.add_zero]
  refine exists_congr fun y => and_congr_right fun _ => ⟨?_, ?_⟩
  · rintro ⟨x, hx, j, hj, rfl⟩
    exact ⟨4 * x + j, by omega, by rw [Nat.add_assoc]⟩
  · rintro ⟨i, hi, rfl⟩
    exact ⟨i / 4, by omega, i % 4, by omega, by rw [Nat.add_assoc, Nat.div_add_mod]⟩

/-- The destination region: the `dst_cap` bytes from `dst_addr` on (R112). -/
theorem mem_destRegion_iff (c : EncConfig) (a : Word) : a ∈ destRegion c ↔ ∃ i < c.dstCap.toNat, addrPlus c.dstAddr i = a := by
  simp only [destRegion, List.mem_map, List.mem_range]

/-- A snapshot that passes CHECK is at most MAX_DIM wide (60_exceptions.md R461). -/
theorem width_le_of_checkConfig {c : EncConfig} (h : checkConfig c = none) : c.w ≤ 16383 := by
  have hdim : badDimensions c = false := by
    unfold checkConfig at h
    split at h
    · cases h
    · next hdim => simpa using hdim
  simp only [badDimensions, Bool.or_eq_false_iff, decide_eq_false_iff_not] at hdim
  obtain ⟨⟨_, hw⟩, _⟩ := hdim
  exact Int.toNat_le.mpr (not_lt.mp hw)

/-- The placement check looks at row starts and lengths, and finds the window exactly when a byte of a region lies in it (R113). -/
theorem buffersMeetWindow_iff (p : Platform) {c : EncConfig} (hw : c.w ≤ 16383) :
    buffersMeetWindow p c = true ↔
      (∃ a ∈ sourceRegion c, inRegisterWindow p a = true) ∨ ∃ a ∈ destRegion c, inRegisterWindow p a = true := by
  have hrow : ∀ start, meetsWindow p start (4 * c.w) = true ↔ ∃ i < 4 * c.w, inRegisterWindow p (addrPlus start i) = true :=
    fun start => meetsWindow_iff p start _ (by omega)
  have hdst : meetsWindow p c.dstAddr c.dstCap.toNat = true ↔ _ := meetsWindow_iff p c.dstAddr _ c.dstCap.isLt
  simp only [buffersMeetWindow, Bool.or_eq_true, List.any_eq_true, List.mem_range, hrow, hdst, mem_sourceRegion_iff, mem_destRegion_iff]
  refine or_congr ⟨?_, ?_⟩ ⟨?_, ?_⟩
  · rintro ⟨y, hy, i, hi, h⟩
    exact ⟨_, ⟨y, hy, i, hi, rfl⟩, h⟩
  · rintro ⟨_, ⟨y, hy, i, hi, rfl⟩, h⟩
    exact ⟨y, hy, i, hi, h⟩
  · rintro ⟨i, hi, h⟩
    exact ⟨_, ⟨i, hi, rfl⟩, h⟩
  · rintro ⟨_, ⟨i, hi, rfl⟩, h⟩
    exact ⟨i, hi, h⟩

/-- An access list touches device memory exactly when one of its addresses is there (R109). -/
theorem touchesDevice_iff (p : Platform) (l : List Word) : touchesDevice p l = true ↔ ∃ a ∈ l, regionKind p a = .device := by
  simp only [touchesDevice, List.any_eq_true, beq_iff_eq]

/-- The buffers' placement is supported exactly when neither of the two reasons against it holds (R109, R113). -/
theorem unsupportedRegion_eq_none_iff (p : Platform) (c : EncConfig) :
    unsupportedRegion p c = none ↔ buffersMeetWindow p c = false ∧ touchesDevice p (sourceRegion c) = false := by
  unfold unsupportedRegion
  cases buffersMeetWindow p c <;> cases touchesDevice p (sourceRegion c) <;> simp

section LegalCheck
variable {s : State} (hp : s.phase = .check) (hi : s.inputs = []) (hc : checkConfig s.session.cfg = none)
include hp hi hc

/-- With no input pending, CHECK refuses a legal snapshot whose buffers are not supported (R109, R113). -/
theorem step_check_refused {r : Refusal} (hu : unsupportedRegion s.platform s.session.cfg = some r) : step s = .refused r := by
  simp only [step_of_no_input hi, stepBlock, hp, stepCheck, hc, hu]

/-- With no input pending, CHECK of a legal snapshot whose buffers are supported goes on to CONVERT (R190). -/
theorem step_check_supported (hu : unsupportedRegion s.platform s.session.cfg = none) : step s = .next { s with phase := .convert } := by
  simp only [step_of_no_input hi, stepBlock, hp, stepCheck, hc, hu]

end LegalCheck

/-- Settles O20: CHECK's test of row starts and lengths is the test of every byte, and decides between the refusal and CONVERT. -/
theorem unsupportedBuffersRefused : Obligations.UnsupportedBuffersRefused := by
  refine ⟨inRegisterWindow_iff, fun s hp hi hc => ?_⟩
  intro inWindow
  have hwin : ∀ a, inRegisterWindow s.platform a = true ↔ inWindow a := inRegisterWindow_iff s.platform
  have hmeet := buffersMeetWindow_iff s.platform (width_le_of_checkConfig hc)
  have hdev := touchesDevice_iff s.platform (sourceRegion s.session.cfg)
  simp only [hwin] at hmeet
  constructor
  · intro hbad
    have hne : unsupportedRegion s.platform s.session.cfg ≠ none := by
      intro hnone
      obtain ⟨hm, hd⟩ := (unsupportedRegion_eq_none_iff _ _).mp hnone
      rcases hbad with ⟨a, ha, hin | hk⟩ | hdst
      · exact absurd (hmeet.mpr (.inl ⟨a, ha, hin⟩)) (by simp [hm])
      · exact absurd (hdev.mpr ⟨a, ha, hk⟩) (by simp [hd])
      · exact absurd (hmeet.mpr (.inr hdst)) (by simp [hm])
    obtain ⟨r, hr⟩ := Option.ne_none_iff_exists'.mp hne
    exact ⟨r, step_check_refused hp hi hc hr⟩
  · intro hsrc hdst
    refine step_check_supported hp hi hc ((unsupportedRegion_eq_none_iff _ _).mpr ⟨?_, ?_⟩)
    · refine Bool.eq_false_iff.mpr fun hm => ?_
      rcases hmeet.mp hm with ⟨a, ha, hin⟩ | ⟨a, ha, hin⟩
      · exact (hsrc a ha).1 hin
      · exact hdst a ha hin
    · refine Bool.eq_false_iff.mpr fun hd => ?_
      obtain ⟨a, ha, hk⟩ := hdev.mp hd
      exact (hsrc a ha).2 hk

/-! What the block does to host memory. -/

/-- No instruction changes host memory (R101). -/
theorem exec_mem {i : Instr} {s t : State} (h : exec i s = .next t) : t.mem = s.mem := by
  rcases exec_cases h with rfl | rfl | rfl | rfl | ⟨cfg, _, rfl⟩ | ⟨o, rfl⟩ | ⟨o, d, rfl⟩ <;> rfl

/-- No transition of the block outside WRITE changes host memory (R114). -/
theorem stepBlock_mem {s t : State} (h : stepBlock s = .next t) (hp : s.phase ≠ .write) : t.mem = s.mem := by
  rcases stepBlock_cases h with ⟨_, rfl⟩ | ⟨_, hc⟩ | ⟨_, hc⟩ | ⟨_, hc⟩ | ⟨hw, _⟩
  · rfl
  · rcases stepCheck_cases hc with ⟨_, _, rfl⟩ | ⟨_, _, rfl⟩ <;> rfl
  · rcases stepConvert_cases hc with ⟨_, rfl⟩ | ⟨_, rfl⟩ <;> rfl
  · rcases stepPass_cases hc with ⟨_, rfl⟩ | ⟨_, rfl⟩ <;> rfl
  · exact absurd hw hp

/-- Every byte of a file has its address at the distance of its position (R105, R440). -/
theorem mem_destCells {dst : Word} {file : List Byte} {c : Host.Cell} (h : c ∈ destCells dst file) :
    ∃ i < file.length, c.1 = (addrPlus dst i).toNat ∧ c.2 = file.getD i 0 := by
  obtain ⟨i, hi, rfl⟩ := List.mem_mapIdx.mp h
  exact ⟨i, hi, rfl, (List.getD_eq_getElem file 0 hi).symm⟩

/-- The bytes WRITE stores of a file that fits lie in the destination region (R112, R114). -/
theorem mem_writtenCells_destRegion {s : State} {file : List Byte} (hfit : file.length ≤ s.session.cfg.dstCap.toNat) {c : Host.Cell}
    (h : c ∈ writtenCells s file) : ∃ x ∈ destRegion s.session.cfg, c.1 = x.toNat := by
  obtain ⟨i, hi, ha, _⟩ := mem_destCells (List.mem_filter.mp h).1
  exact ⟨_, (mem_destRegion_iff _ _).mpr ⟨i, hi.trans_le hfit, rfl⟩, ha⟩

/-- WRITE changes bytes of the destination region only (R114). -/
theorem stepWrite_outside_destRegion {s t : State} {best : PassResult} (h : stepWrite s = .next t) (hb : s.session.best = some best)
    (hsize : best.size = best.file.length) {a : Nat} (ha : ∀ x ∈ destRegion s.session.cfg, a ≠ x.toNat) :
    readByte t.mem a = readByte s.mem a := by
  obtain ⟨best', hb', ⟨_, rfl⟩ | ⟨hfit, rfl | rfl⟩⟩ := stepWrite_cases h
  · rfl
  · obtain rfl : best' = best := Option.some.inj (hb'.symm.trans hb)
    refine readByte_writeCells_other fun c hc heq => ?_
    obtain ⟨x, hx, hcx⟩ := mem_writtenCells_destRegion (hsize ▸ hfit) hc
    exact ha x hx (heq.symm.trans hcx)
  · rfl

/-- Settles O26: one lemma for the transitions outside WRITE, one for the instructions and one for WRITE; reset keeps memory by its definition. -/
theorem onlyWriteTouchesMemory : Obligations.OnlyWriteTouchesMemory := by
  refine ⟨fun s t => stepBlock_mem, fun i s t => exec_mem, fun s t rest hin h => ?_, fun s t best h hp hb hsize a ha => ?_⟩
  · simp only [step, hin] at h
    cases h
    rfl
  · have hwrite : stepWrite s = .next t := by simpa only [stepBlock, hp] using h
    exact stepWrite_outside_destRegion hwrite hb hsize ha

/-! Accesses the platform does not admit. -/

/-- One address with nothing behind it is enough for a list not to be admitted (R110). -/
theorem admitted_eq_false {p : Platform} {addrs : List Word} (h : ∃ a ∈ addrs, regionKind p a = .absent) : admitted p addrs = false := by
  obtain ⟨a, ha, hk⟩ := h
  exact List.all_eq_false.mpr ⟨a, ha, by simp [hk]⟩

/-- A CONVERT with a source byte that is not admitted has no step (R110; log 8). -/
theorem step_convert_stuck {s : State} (hp : s.phase = .convert) (hi : s.inputs = [])
    (h : ∃ a ∈ sourceRegion s.session.cfg, regionKind s.platform a = .absent) : step s = .next s := by
  simp [step_of_no_input hi, stepBlock, hp, stepConvert, admitted_eq_false h]

/-- A WRITE of a file that fits with a destination byte that is not admitted has no step (R110; log 8). -/
theorem step_write_stuck {s : State} {best : PassResult} (hp : s.phase = .write) (hi : s.inputs = []) (hb : s.session.best = some best)
    (hfit : best.size ≤ s.session.cfg.dstCap.toNat)
    (h : ∃ i < best.size, regionKind s.platform (addrPlus s.session.cfg.dstAddr i) = .absent) : step s = .next s := by
  obtain ⟨i, hlt, hk⟩ := h
  have hadm : admitted s.platform ((List.range best.size).map (addrPlus s.session.cfg.dstAddr)) = false :=
    admitted_eq_false ⟨_, List.mem_map_of_mem (List.mem_range.mpr hlt), hk⟩
  simp [step_of_no_input hi, stepBlock, hp, stepWrite, hb, not_lt.mpr hfit, hadm]

/-- Settles O27: a stuck phase steps to itself, so every run from it stays there, and a running phase has BUSY = 1. -/
theorem stuckForEver : Obligations.StuckForEver := by
  intro s n hregs hi hstuck
  obtain ⟨_, _, _, _, _, hbusy, _⟩ := hregs
  rcases hstuck with ⟨hp, habs⟩ | ⟨hp, best, hb, hfit, habs⟩
  · exact ⟨run_of_fixed (step_convert_stuck hp hi habs) n, hbusy.mpr (by simp [hp])⟩
  · exact ⟨run_of_fixed (step_write_stuck hp hi hb hfit habs) n, hbusy.mpr (by simp [hp])⟩

end Sys2Proof.Machine
end

section
/-! The host's cache and its accesses at the port (20_memory.md R115 to R119; 70_reset_and_hazards.md R520, R521). -/

namespace Sys2Proof.Machine

/-! The cache (log 9). -/

/-- A cached line is found under its own address. -/
theorem cacheFind_addr {c : List HostLine} {a : Nat} {l : HostLine} (h : cacheFind c a = some l) : l.addr = a :=
  beq_iff_eq.mp (List.find?_some (p := fun l : HostLine => l.addr == a) h)

/-- Dropping a byte drops that byte alone. -/
theorem cacheFind_cacheDrop (c : List HostLine) (a x : Nat) :
    cacheFind (cacheDrop c a) x = if x = a then none else cacheFind c x := by
  split
  · next hx =>
    refine List.find?_eq_none.mpr fun l hl => ?_
    have hla := (List.mem_filter.mp hl).2
    simpa [hx] using hla
  · next hx =>
    have hkept : ∀ l : HostLine, l.addr = x → ¬l.addr = a := fun l hl ha => hx (hl.symm.trans ha)
    simp only [cacheFind, cacheDrop, List.find?_filter]
    exact congrArg (List.find? · c) (funext fun l => Bool.eq_iff_iff.mpr (by simpa using hkept l))

/-- A line that is put in the cache is the one found under its address, and no other changes. -/
theorem cacheFind_cachePut (c : List HostLine) (l : HostLine) (x : Nat) :
    cacheFind (cachePut c l) x = if x = l.addr then some l else cacheFind c x := by
  by_cases hx : x = l.addr
  · simp [cachePut, cacheFind, hx]
  · have hlx : l.addr ≠ x := Ne.symm hx
    have hcons : cacheFind (cachePut c l) x = cacheFind (cacheDrop c l.addr) x := by
      simp [cachePut, cacheFind, hlx]
    rw [hcons, cacheFind_cacheDrop, if_neg hx, if_neg hx]

/-- The line that is put in the cache for a byte is the one found there. -/
theorem cacheFind_cachePut_same (c : List HostLine) (l : HostLine) : cacheFind (cachePut c l) l.addr = some l :=
  (cacheFind_cachePut c l l.addr).trans (if_pos rfl)

/-- The same as `cacheFind_cachePut`, with the line found written out at the address it is looked up at. -/
theorem cacheFind_cachePut_line (c : List HostLine) (a : Nat) (b : Byte) (d : Bool) (x : Nat) :
    cacheFind (cachePut c { addr := a, byte := b, dirty := d }) x =
      if x = a then some { addr := x, byte := b, dirty := d } else cacheFind c x := by
  rw [cacheFind_cachePut]
  split
  · next hx => rw [hx]
  · rfl

/-! A store at the port. -/

/-- What a store of `b` at address `a` that the port sees does to memory and to the records of races: the byte is the new one and no other
changes; in CHECK and CONVERT the values a read may return gain it and lose none (R520; log 10); in WRITE the address is marked (R521; log 11). -/
def StoredAtPort (a : Nat) (b : Byte) (s t : State) : Prop :=
  (∀ x, readByte t.mem x = if x = a then b else readByte s.mem x) ∧
  (s.phase = .check ∨ s.phase = .convert → ∀ (x : Nat) (v : Byte), v ∈ heldValues t x ↔ v ∈ heldValues s x ∨ (x = a ∧ v = b)) ∧
  (s.phase ≠ .check → s.phase ≠ .convert → t.srcRace = s.srcRace) ∧
  ∀ x, x ∈ t.dstRace ↔ x ∈ s.dstRace ∨ (s.phase = .write ∧ x = a)

/-- The record of replaced values grows by the value a store replaces, in CHECK and CONVERT (log 10). -/
theorem portStore_srcRace {a : Nat} {b : Byte} {s : State} (h : s.phase = .check ∨ s.phase = .convert) :
    (portStore a b s).srcRace = (a, readByte s.mem a) :: s.srcRace := by
  rcases h with h | h <;> simp [portStore, h]

/-- In every other phase the record of replaced values stays (log 10). -/
theorem portStore_srcRace_other {a : Nat} {b : Byte} {s : State} (hc : s.phase ≠ .check) (hv : s.phase ≠ .convert) :
    (portStore a b s).srcRace = s.srcRace := by
  unfold portStore
  split
  · rfl
  · next h => exact absurd h hc
  · next h => exact absurd h hv
  · rfl
  · rfl

/-- The record of addresses grows by the address of a store in WRITE, and only there (log 11). -/
theorem mem_portStore_dstRace (a : Nat) (b : Byte) (s : State) (x : Nat) :
    x ∈ (portStore a b s).dstRace ↔ x ∈ s.dstRace ∨ (s.phase = .write ∧ x = a) := by
  unfold portStore
  split <;> next h => simp [h, or_comm]

/-- The values a read may return gain the stored byte and lose none: the replaced one is in the record (R520). -/
theorem mem_heldValues_portStore {a : Nat} {b : Byte} {s : State} (hwf : s.mem.wf = true) (h : s.phase = .check ∨ s.phase = .convert)
    (x : Nat) (v : Byte) : v ∈ heldValues (portStore a b s) x ↔ v ∈ heldValues s x ∨ (x = a ∧ v = b) := by
  by_cases hx : x = a
  · subst hx
    simp [heldValues, raceValues, portStore_srcRace h, readByte_writeByte hwf, or_comm]
  · have hax : a ≠ x := Ne.symm hx
    simp [heldValues, raceValues, portStore_srcRace h, readByte_writeByte hwf, hx, hax]

/-- A store the port sees, whole. -/
theorem portStore_storedAtPort (a : Nat) (b : Byte) {s : State} (hwf : s.mem.wf = true) : StoredAtPort a b s (portStore a b s) :=
  ⟨fun x => by rw [portStore_mem, readByte_writeByte hwf], mem_heldValues_portStore hwf, portStore_srcRace_other,
    mem_portStore_dstRace a b s⟩

/-! A load at the port. -/

/-- The bytes a host read may see at the port: memory's, or, in WRITE with a file that fits, the file's for that address (R117, R521). -/
def SeenAtPort (s : State) (a : Word) (v : Byte) : Prop :=
  v = readByte s.mem a.toNat ∨
    (s.phase = .write ∧ ∃ best i, s.session.best = some best ∧ best.size ≤ s.session.cfg.dstCap.toNat ∧ i < best.file.length ∧
      addrPlus s.session.cfg.dstAddr i = a ∧ v = best.file.getD i 0)

/-- A file byte at the port is a byte of a file that fits, at the address of its position, and the block is in WRITE (R117). -/
theorem fileByteAt_some {s : State} {a : Word} {f : Byte} (h : fileByteAt s a.toNat = some f) :
    s.phase = .write ∧ ∃ best i, s.session.best = some best ∧ best.size ≤ s.session.cfg.dstCap.toNat ∧ i < best.file.length ∧
      addrPlus s.session.cfg.dstAddr i = a ∧ f = best.file.getD i 0 := by
  unfold fileByteAt at h
  split at h
  · next best hp hb =>
    split at h
    · cases h
    · next hfit =>
      obtain ⟨c, hc, rfl⟩ := Option.map_eq_some_iff.mp h
      obtain ⟨i, hi, haddr, hbyte⟩ := mem_destCells (List.mem_of_find?_eq_some hc)
      have hca : c.1 = a.toNat := beq_iff_eq.mp (List.find?_some (p := fun c : Host.Cell => c.1 == a.toNat) hc)
      exact ⟨hp, best, i, hb, not_lt.mp hfit, hi, BitVec.eq_of_toNat_eq (haddr.symm.trans hca), hbyte⟩
  · cases h

/-- What a host read sees at the port is one of the bytes it may see (R117). -/
theorem portByte_seenAtPort (s : State) (a : Word) : SeenAtPort s a (portByte s a.toNat) := by
  unfold portByte
  split
  · exact .inl rfl
  · next f hf =>
    split
    · exact .inr (fileByteAt_some hf)
    · exact .inl rfl

/-! One step of the host on ordinary memory. -/

section OnOrdinaryMemory
variable {s : State} {a : Word} {b : Byte} {rest : List Input}
variable (hw : inRegisterWindow s.platform a = false) (hr : regionKind s.platform a = .ram)
include hw hr

/-- Where the port is not coherent a store goes to the host's cache (R119). -/
theorem step_hostStore_cached (hin : s.inputs = .hostStore a b :: rest) (hnc : s.platform.dmaCoherent = false) :
    step s = .next { s with
      inputs := rest
      hostCache := cachePut s.hostCache { addr := a.toNat, byte := b, dirty := true } } := by
  rw [step_hostStore hin, onRam_ram (s := { s with inputs := rest }) _ hw hr]
  simp [storeEffect, hnc]

/-- A load of a cached byte gives the cached one (R119). -/
theorem step_hostLoad_cached (hin : s.inputs = .hostLoad a :: rest) (hnc : s.platform.dmaCoherent = false) {l : HostLine}
    (hl : cacheFind s.hostCache a.toNat = some l) : step s = .next { s with inputs := rest, hostByte := l.byte } := by
  rw [step_hostLoad hin, onRam_ram (s := { s with inputs := rest }) _ hw hr]
  simp [loadEffect, hnc, hl]

/-- A load of a byte that is not cached gives the byte at the port and caches it (R119). -/
theorem step_hostLoad_uncached (hin : s.inputs = .hostLoad a :: rest) (hnc : s.platform.dmaCoherent = false)
    (hl : cacheFind s.hostCache a.toNat = none) :
    step s = .next { s with
      inputs := rest
      hostByte := portByte s a.toNat
      hostCache := cachePut s.hostCache { addr := a.toNat, byte := portByte s a.toNat, dirty := false }
      freeCount := s.freeCount + 1 } := by
  rw [step_hostLoad hin, onRam_ram (s := { s with inputs := rest }) _ hw hr]
  simp only [loadEffect, hnc, hl, Bool.false_eq_true, if_false]
  rfl

/-- Cleaning a byte that is not cached, or not dirty, changes nothing (R119). -/
theorem step_cacheClean_of_not_dirty (hin : s.inputs = .cacheClean a :: rest)
    (hl : ∀ l, cacheFind s.hostCache a.toNat = some l → l.dirty = false) : step s = .next { s with inputs := rest } := by
  rw [step_cacheClean hin, onRam_ram (s := { s with inputs := rest }) _ hw hr]
  cases hf : cacheFind s.hostCache a.toNat with
  | none => simp only [cleanEffect, hf]
  | some l => simp only [cleanEffect, hf, hl l hf, Bool.false_eq_true, if_false]

/-- Cleaning a dirty byte stores it at the port and leaves it cached (R119). -/
theorem step_cacheClean_dirty (hin : s.inputs = .cacheClean a :: rest) {l : HostLine} (hl : cacheFind s.hostCache a.toNat = some l)
    (hd : l.dirty = true) :
    step s = .next (portStore a.toNat l.byte
      { s with inputs := rest, hostCache := cachePut s.hostCache { l with dirty := false } }) := by
  rw [step_cacheClean hin, onRam_ram (s := { s with inputs := rest }) _ hw hr]
  simp only [cleanEffect, hl, hd, if_true]

/-- Invalidating a byte drops it from the cache (R119). -/
theorem step_cacheInvalidate_drops (hin : s.inputs = .cacheInvalidate a :: rest) :
    step s = .next { s with inputs := rest, hostCache := cacheDrop s.hostCache a.toNat } := by
  rw [step_cacheInvalidate hin, onRam_ram (s := { s with inputs := rest }) _ hw hr]
  rfl

end OnOrdinaryMemory

/-- Settles O60: each clause runs one or two of the steps above, a store and its clean ending as a store at the port, and every load that
reaches the port giving a byte that may be seen there. -/
theorem cleaningMakesAStoreVisible : Obligations.CleaningMakesAStoreVisible := by
  refine ⟨?storeClean, ?storeLoad, ?loadCached, ?invalidateLoad, ?loadUncached, ?clean, ?invalidate⟩
  case storeClean =>
    intro s a b rest hin hnc hwf hw hr
    have hline := cacheFind_cachePut_same s.hostCache { addr := a.toNat, byte := b, dirty := true }
    exact ⟨_, _, step_hostStore_cached hw hr hin hnc, rfl, rfl, rfl, rfl, rfl, rfl, rfl, rfl, cacheFind_cachePut_line _ _ _ _,
      step_cacheClean_dirty
        (s := { s with inputs := _, hostCache := cachePut s.hostCache { addr := a.toNat, byte := b, dirty := true } }) hw hr rfl hline rfl,
      portStore_inputs _ _ _, portStore_regs _ _ _, portStore_phase _ _ _,
      portStore_session _ _ _, portStore_platform _ _ _, portStore_storedAtPort _ _ hwf⟩
  case storeLoad =>
    intro s a b rest hin hnc hw hr
    have hline := cacheFind_cachePut_same s.hostCache { addr := a.toNat, byte := b, dirty := true }
    exact ⟨_, _, step_hostStore_cached hw hr hin hnc,
      step_hostLoad_cached
        (s := { s with inputs := _, hostCache := cachePut s.hostCache { addr := a.toNat, byte := b, dirty := true } }) hw hr rfl hnc hline,
      rfl, rfl, rfl, rfl, rfl, rfl, rfl⟩
  case loadCached =>
    intro s a l rest hin hnc hw hr hl
    exact step_hostLoad_cached hw hr hin hnc hl
  case invalidateLoad =>
    intro s a rest hin hnc hw hr
    have hnone := (cacheFind_cacheDrop s.hostCache a.toNat a.toNat).trans (if_pos rfl)
    exact ⟨_, _, step_cacheInvalidate_drops hw hr hin, step_hostLoad_uncached hw hr rfl hnc hnone, rfl, rfl, rfl, rfl, rfl, rfl,
      portByte_seenAtPort _ a⟩
  case loadUncached =>
    intro s a rest hin hnc hw hr hnone
    exact ⟨_, step_hostLoad_uncached hw hr hin hnc hnone, rfl, rfl, rfl, rfl, rfl, rfl, rfl, rfl, cacheFind_cachePut_line _ _ _ _,
      portByte_seenAtPort s a⟩
  case clean =>
    intro s a rest hin hw hr
    refine ⟨step_cacheClean_of_not_dirty hw hr hin, fun l hwf hl hd => ⟨_, step_cacheClean_dirty hw hr hin hl hd, portStore_inputs _ _ _,
      portStore_regs _ _ _, portStore_phase _ _ _, portStore_session _ _ _, portStore_platform _ _ _, portStore_hostByte _ _ _,
      fun x => ?_, portStore_storedAtPort _ _ hwf⟩⟩
    rw [portStore_hostCache, cacheFind_cachePut, cacheFind_addr hl]
  case invalidate =>
    intro s a rest hin hw hr
    exact ⟨_, step_cacheInvalidate_drops hw hr hin, cacheFind_cacheDrop s.hostCache a.toNat⟩

end Sys2Proof.Machine
end

section
/-! The encoding of the instructions (20_memory.md R102, R106; 30_encoding.md R140 to R146). -/

namespace Sys2Proof.Machine

/-! Little-endian bytes (20_memory.md R102; 46_container.md R431). -/

theorem leBytes_succ (n v : Nat) : leBytes (n + 1) v = BitVec.ofNat 8 v :: leBytes n (v / 256) := by
  have hshift (i : Nat) : v >>> (8 * (i + 1)) = (v / 256) >>> (8 * i) := by
    rw [show 8 * (i + 1) = 8 + 8 * i from by omega, Nat.shiftRight_add, Nat.shiftRight_eq_div_pow v 8]
  simp only [leBytes, List.range_succ_eq_map, List.map_cons, List.map_map, Function.comp_def, Nat.succ_eq_add_one, hshift,
    Nat.mul_zero, Nat.shiftRight_zero]

/-- The number `n` bytes carry: the low `8 * n` bits. -/
theorem leValue_leBytes (n v : Nat) : leValue (leBytes n v) = v % 256 ^ n := by
  induction n generalizing v with
  | zero => exact (Nat.mod_one v).symm
  | succ n ih =>
    calc leValue (leBytes (n + 1) v)
        = v % 256 + 256 * (v / 256 % 256 ^ n) := by rw [leBytes_succ, leValue, ih, BitVec.toNat_ofNat]
      _ = v % 256 ^ (n + 1) := by rw [Nat.pow_succ', Nat.mod_mul]

/-- Bytes are those of the number they stand for. -/
theorem leBytes_leValue (bytes : List Byte) : leBytes bytes.length (leValue bytes) = bytes := by
  induction bytes with
  | nil => rfl
  | cons b bs ih =>
    have hb : b.toNat < 256 := b.isLt
    have hlow : BitVec.ofNat 8 (b.toNat + 256 * leValue bs) = b := BitVec.eq_of_toNat_eq (by rw [BitVec.toNat_ofNat]; omega)
    have hrest : (b.toNat + 256 * leValue bs) / 256 = leValue bs := by omega
    rw [List.length_cons, leValue, leBytes_succ, hlow, hrest, ih]

theorem leValue_lt (bytes : List Byte) : leValue bytes < 256 ^ bytes.length := by
  have hmod : leValue bytes = leValue bytes % 256 ^ bytes.length := by
    simpa only [leBytes_leValue] using leValue_leBytes bytes.length (leValue bytes)
  exact hmod.trans_lt (Nat.mod_lt _ (Nat.pow_pos (by decide)))

/-- The word that four bytes of a register access carry is the one they are the bytes of. -/
theorem ofNat_leValue_wordBytes (d : Word) : BitVec.ofNat 32 (leValue (wordBytes d)) = d := by
  have hd : d.toNat < 256 ^ 4 := d.isLt
  rw [wordBytes, leValue_leBytes, Nat.mod_eq_of_lt hd, BitVec.ofNat_toNat, BitVec.setWidth_eq]

theorem wordBytes_ofNat_leValue {bytes : List Byte} (h : bytes.length = 4) : wordBytes (BitVec.ofNat 32 (leValue bytes)) = bytes := by
  have hlt : leValue bytes < 2 ^ 32 := by simpa [h] using leValue_lt bytes
  rw [wordBytes, BitVec.toNat_ofNat, Nat.mod_eq_of_lt hlt, ← h, leBytes_leValue]

/-! The instruction of a register write (R142, R143). -/

/-- A write at another offset than CMD's, or of another word than the four commands, is WR. -/
theorem decodeWrite_wr {o : Offset} {d : Word} (h : o = cmdOffset → legalCommand d = false) : decodeWrite o d = .wr o d := by
  by_cases ho : o = cmdOffset
  · have hne (c : Word) (hc : legalCommand c = true) : d ≠ c := by
      rintro rfl
      exact Bool.false_ne_true ((h ho).symm.trans hc)
    rw [decodeWrite, if_pos ho, if_neg (hne _ rfl), if_neg (hne _ rfl), if_neg (hne _ rfl), if_neg (hne _ rfl)]
  · exact if_neg ho

/-- Whatever instruction a write decodes to, its access is that write. -/
theorem encode_decodeWrite (o : Offset) (d : Word) : encode (decodeWrite o d) = .write o (wordBytes d) := by
  unfold decodeWrite
  split_ifs with ho hnop hencode hsimple hclear
  · rw [ho, hnop]; rfl
  · rw [ho, hencode]; rfl
  · rw [ho, hsimple]; rfl
  · rw [ho, hclear]; rfl
  · rfl
  · rfl

/-! The accesses that carry an instruction (R106, R140). -/

theorem decode_read_word {o : Offset} (ho : alignedOffset o = true) : decode (.read o 4) = .instr (.rd o) := by
  simp only [decode, ne_eq, not_true, if_false, ho, if_true]

theorem decode_write_word {o : Offset} (ho : alignedOffset o = true) (d : Word) :
    decode (.write o (wordBytes d)) = .instr (decodeWrite o d) := by
  simp only [decode, Laws.EncodesWordAccess.wordBytes_length, ne_eq, not_true, if_false, ho, if_true, ofNat_leValue_wordBytes]

/-- The accesses that decode: a 32-bit read or write at a multiple of 4, the write as the word its bytes stand for. -/
theorem decode_eq_instr {a : BusAccess} {i : Instr} (h : decode a = .instr i) :
    (∃ o, alignedOffset o = true ∧ a = .read o 4 ∧ i = .rd o) ∨
      (∃ o d, alignedOffset o = true ∧ a = .write o (wordBytes d) ∧ i = decodeWrite o d) := by
  cases a with
  | read o size =>
    by_cases hbad : size ≠ 4 ∨ o.toNat % 4 ≠ 0
    · obtain ⟨e, he⟩ := decode_read_unsupported hbad
      cases he.symm.trans h
    · obtain ⟨rfl, ho⟩ : size = 4 ∧ o.toNat % 4 = 0 := by omega
      have hal : alignedOffset o = true := beq_iff_eq.mpr ho
      cases (decode_read_word hal).symm.trans h
      exact .inl ⟨o, hal, rfl, rfl⟩
  | write o bytes =>
    by_cases hbad : bytes.length ≠ 4 ∨ o.toNat % 4 ≠ 0
    · obtain ⟨e, he⟩ := decode_write_unsupported hbad
      cases he.symm.trans h
    · obtain ⟨hlen, ho⟩ : bytes.length = 4 ∧ o.toNat % 4 = 0 := by omega
      rw [← wordBytes_ofNat_leValue hlen] at h ⊢
      have hal : alignedOffset o = true := beq_iff_eq.mpr ho
      cases (decode_write_word hal _).symm.trans h
      exact .inr ⟨o, _, hal, rfl, rfl⟩

/-! The decoder and the encoder are inverse to each other. -/

/-- Settles O10: a command is the write of its word to CMD, and a well-formed WR is no command (log 22). -/
theorem decodeOfEncode : Obligations.DecodeOfEncode := by
  intro i hwf
  have hcmd : alignedOffset cmdOffset = true := rfl
  cases i with
  | nop => exact decode_write_word hcmd _
  | encode => exact decode_write_word hcmd _
  | encodeSimple => exact decode_write_word hcmd _
  | clear => exact decode_write_word hcmd _
  | rd o => exact decode_read_word hwf
  | wr o d =>
    obtain ⟨ho, hnotCommand⟩ : alignedOffset o = true ∧ (o = cmdOffset → legalCommand d = false) := by
      simpa [Instr.WellFormed, Instr.wellFormed, imp_iff_not_or] using hwf
    rw [encode, decode_write_word ho, decodeWrite_wr hnotCommand]

/-- Settles O11: a read carries its RD, and the instruction a write decodes to is carried by that write. -/
theorem encodeOfDecode : Obligations.EncodeOfDecode := by
  intro a i h
  rcases decode_eq_instr h with ⟨o, -, rfl, rfl⟩ | ⟨o, d, -, rfl, rfl⟩
  · rfl
  · exact encode_decodeWrite o d

/-- An access whose bytes are those of a well-formed instruction decodes to it. -/
theorem decode_of_encode_eq {i : Instr} {a : BusAccess} (hwf : i.WellFormed) (ha : encode i = a) : decode a = .instr i :=
  ha ▸ decodeOfEncode i hwf

/-- Settles O9: each access is, byte for byte, the encoding of its instruction; the word 0x103 has a reserved bit set, so it is WR's. -/
theorem knownAccessesDecode : Obligations.KnownAccessesDecode :=
  ⟨decode_of_encode_eq rfl rfl, decode_of_encode_eq rfl rfl, decode_of_encode_eq rfl rfl, decode_of_encode_eq rfl rfl,
    decode_of_encode_eq rfl rfl, decode_of_encode_eq rfl rfl, decode_of_encode_eq rfl rfl⟩

end Sys2Proof.Machine
end

section
/-! Register reads and writes and what a write to CMD issues (10_state.md section 2; 30_encoding.md R141; 40_commands.md R180 to R184). -/

namespace Sys2Proof.Machine

/-! The register map (R141). -/

theorem regAt_offsetOf (r : RegName) : regAt (offsetOf r) = some r := by cases r <;> rfl

theorem alignedOffset_offsetOf (r : RegName) : alignedOffset (offsetOf r) = true := by cases r <;> rfl

/-- The map ends below 0x50 (R52, R141). -/
theorem regAt_unmapped {o : Offset} (h : 0x50 ≤ o.toNat) : regAt o = none := by
  have hlow : ∀ e ∈ registerMap, e.2.toNat < 0x50 := by decide
  refine Option.map_eq_none_iff.mpr (List.find?_eq_none.mpr fun e he heq => ?_)
  have := hlow e he
  rw [beq_iff_eq.mp heq] at this
  omega

/-! One register read or written (R184). -/

theorem exec_rd_reg (r : RegName) (s : State) : exec (.rd (offsetOf r)) s = .next { s with busData := readReg r s.regs } := by
  rw [exec, execRd, if_pos (alignedOffset_offsetOf r), readOffset, regAt_offsetOf]

theorem exec_rd_unmapped {o : Offset} (ho : alignedOffset o = true) (h : regAt o = none) (s : State) :
    exec (.rd o) s = .next { s with busData := 0 } := by
  rw [exec, execRd, if_pos ho, readOffset, h]

theorem exec_wr_reg {r : RegName} (hr : r ≠ .cmd) (d : Word) (s : State) :
    exec (.wr (offsetOf r) d) s = .next { s with regs := writeReg r d s.regs } := by
  have hcmd : offsetOf r ≠ cmdOffset := fun h => hr (Option.some.inj ((regAt_offsetOf r).symm.trans (congrArg regAt h)))
  rw [exec, execWr, if_pos (alignedOffset_offsetOf r), if_neg hcmd, writeOffset, regAt_offsetOf]

theorem exec_wr_unmapped {o : Offset} (ho : alignedOffset o = true) (h : regAt o = none) (d : Word) (s : State) :
    exec (.wr o d) s = .next s := by
  have hcmd : o ≠ cmdOffset := by
    rintro rfl
    cases h
  rw [exec, execWr, if_pos ho, if_neg hcmd, writeOffset, h]

/-- The registers of the map in the order of their offsets. -/
def allRegs : List RegName := registerMap.map (·.1)

/-- The registers that a write stores to, CTRL one bit of it (10_state.md R43, R44). -/
def writableRegs : List RegName :=
  [.ctrl, .srcAddr, .srcLen, .stride, .width, .height, .format, .quality, .method, .targetSize, .dstAddr, .dstCap]

/-- The registers that ignore a write (10_state.md R41). -/
def readOnlyRegs : List RegName := [.id, .status, .errCode, .outLen, .qUsed, .passes, .payloadLen]

theorem exec_wr_readOnly {r : RegName} (hr : r ∈ readOnlyRegs) (d : Word) (s : State) : exec (.wr (offsetOf r) d) s = .next s := by
  have hcmd : r ≠ .cmd := by
    rintro rfl
    exact absurd hr (by decide)
  have hkeep : writeReg r d s.regs = s.regs := by
    simp only [readOnlyRegs, List.mem_cons, List.not_mem_nil, or_false] at hr
    rcases hr with rfl | rfl | rfl | rfl | rfl | rfl | rfl <;> rfl
  rw [exec_wr_reg hcmd, hkeep]

/-- Settles O3: the list is the register map with each register's value, and from 0x50 on the map is empty. -/
theorem rdReturnsTheRegister : Obligations.RdReturnsTheRegister := by
  refine fun s => ⟨fun e he => ?_, fun o hlow hal => ?_⟩
  · obtain ⟨r, _, rfl⟩ : ∃ r ∈ allRegs, (offsetOf r, readReg r s.regs) = e := List.mem_map.mp he
    exact exec_rd_reg r s
  · exact exec_rd_unmapped (beq_iff_eq.mpr hal) (regAt_unmapped hlow) s

/-- Settles O4: the first list is the writable registers with the file after a write to each, the second the read-only ones. -/
theorem wrStoresTheRegister : Obligations.WrStoresTheRegister := by
  refine fun s d => ⟨fun e he => ?_, fun o ho => ?_⟩
  · rw [← ctrlStored_eq_and_one] at he
    obtain ⟨r, hr, rfl⟩ : ∃ r ∈ writableRegs, (offsetOf r, writeReg r d s.regs) = e := List.mem_map.mp he
    have hcmd : r ≠ .cmd := by
      rintro rfl
      exact absurd hr (by decide)
    exact exec_wr_reg hcmd d s
  · rcases ho with ho | ⟨hlow, hal⟩
    · obtain ⟨r, hr, rfl⟩ : ∃ r ∈ readOnlyRegs, offsetOf r = o := List.mem_map.mp ho
      exact exec_wr_readOnly hr d s
    · exact exec_wr_unmapped (beq_iff_eq.mpr hal) (regAt_unmapped hlow) d s

/-! Command issue (R180 to R183). -/

/-- The legal words are the numbers 0 to 3 (R142, R143). -/
theorem legalCommand_iff (w : Word) : legalCommand w = true ↔ w.toNat ≤ 3 := by
  rw [legalCommand, Bool.and_eq_true, beq_iff_eq, decide_eq_true_iff, rsvdField, opcField]
  omega

theorem legalCommand_cases {w : Word} (h : legalCommand w = true) : w = 0 ∨ w = 1 ∨ w = 2 ∨ w = 3 := by
  have hw := (legalCommand_iff w).mp h
  bv_omega

theorem unlessBusy_of_busy {s : State} (h : s.busy = true) (effect : State → State) : unlessBusy effect s = dropCommand s := if_pos h

theorem unlessBusy_of_not_busy {s : State} (h : s.busy = false) (effect : State → State) : unlessBusy effect s = effect s := by
  rw [unlessBusy, h, if_neg Bool.false_ne_true]

theorem dropCommand_eq (s : State) : dropCommand s = { s with regs := { s.regs with status := s.regs.status ||| 0x08 } } := rfl

theorem flagBadCommand_eq (s : State) : flagBadCommand s = { s with regs := { s.regs with status := s.regs.status ||| 0x10 } } := rfl

/-- An illegal word sets BAD_CMD, whether the block is BUSY or not (R182). -/
theorem exec_wr_cmd_illegal {w : Word} (h : legalCommand w = false) (s : State) : exec (.wr 0x08 w) s = .next (flagBadCommand s) := by
  have hissue : exec (.wr 0x08 w) s = .next (issueCommand w s) := rfl
  rw [hissue, issueCommand, h, if_neg Bool.false_ne_true]

/-! A legal word written to CMD is its command (R143, R180). -/

theorem exec_wr_cmd_nop (s : State) : exec (.wr 0x08 0) s = exec .nop s := rfl
theorem exec_wr_cmd_encode (s : State) : exec (.wr 0x08 1) s = exec .encode s := rfl
theorem exec_wr_cmd_encodeSimple (s : State) : exec (.wr 0x08 2) s = exec .encodeSimple s := rfl
theorem exec_wr_cmd_clear (s : State) : exec (.wr 0x08 3) s = exec .clear s := rfl

/-- Settles O16: each of the three commands is its effect unless the block is BUSY. -/
theorem busyDropsCommands : Obligations.BusyDropsCommands := by
  intro s i hb hi
  rw [← dropCommand_eq]
  rcases hi with rfl | rfl | rfl
  · exact congrArg _ (unlessBusy_of_busy hb _)
  · exact congrArg _ (unlessBusy_of_busy hb _)
  · exact congrArg _ (unlessBusy_of_busy hb _)

/-- Settles O6: a word that is not legal sets BAD_CMD, and each of the four legal ones is its command, dropped while BUSY but for NOP. -/
theorem cmdWriteIssuesTheWord : Obligations.CmdWriteIssuesTheWord := by
  intro w s
  cases hw : legalCommand w with
  | false =>
    have hnot : ¬w.toNat ≤ 3 := fun h => Bool.false_ne_true (hw.symm.trans ((legalCommand_iff w).mpr h))
    rw [if_pos (by omega), exec_wr_cmd_illegal hw, flagBadCommand_eq]
  | true =>
    have hdrop (i : Instr) (hi : i = .encode ∨ i = .encodeSimple ∨ i = .clear) :
        exec i s = if s.busy then .next { s with regs := { s.regs with status := s.regs.status ||| 0x08 } } else exec i s := by
      split
      · next hb => exact busyDropsCommands s i hb hi
      · rfl
    rcases legalCommand_cases hw with rfl | rfl | rfl | rfl
    · rfl
    · exact (exec_wr_cmd_encode s).trans (hdrop _ (.inl rfl))
    · exact (exec_wr_cmd_encodeSimple s).trans (hdrop _ (.inr (.inl rfl)))
    · exact (exec_wr_cmd_clear s).trans (hdrop _ (.inr (.inr rfl)))

end Sys2Proof.Machine
end

section
/-! What a step runs (30_encoding.md section 1; 40_commands.md R194). -/

namespace Sys2Proof.Machine

/-! An access carries a well-formed instruction (R106, R143; log 22). -/

theorem wellFormed_wr_iff {o : Offset} {d : Word} :
    (Instr.wr o d).WellFormed ↔ alignedOffset o = true ∧ (o = cmdOffset → legalCommand d = false) := by
  simp [Instr.WellFormed, Instr.wellFormed, imp_iff_not_or]

theorem decodeWrite_wellFormed {o : Offset} (ho : alignedOffset o = true) (d : Word) : (decodeWrite o d).WellFormed := by
  by_cases hcmd : o = cmdOffset ∧ legalCommand d = true
  · obtain ⟨rfl, hd⟩ := hcmd
    rcases legalCommand_cases hd with rfl | rfl | rfl | rfl <;> rfl
  · have hwr : o = cmdOffset → legalCommand d = false := fun h => Bool.eq_false_iff.mpr fun hd => hcmd ⟨h, hd⟩
    rw [decodeWrite_wr hwr]
    exact wellFormed_wr_iff.mpr ⟨ho, hwr⟩

theorem decode_wellFormed {a : BusAccess} {i : Instr} (h : decode a = .instr i) : i.WellFormed := by
  rcases decode_eq_instr h with ⟨o, ho, -, rfl⟩ | ⟨o, d, ho, -, rfl⟩
  · exact ho
  · exact decodeWrite_wellFormed ho d

/-- A step that takes an access runs the instruction it carries. -/
theorem step_bus_instr {s : State} {rest : List Input} {a : BusAccess} {i : Instr} (h : s.inputs = .bus a :: rest)
    (hd : decode a = .instr i) : step s = exec i { s with inputs := rest } := by
  simp only [step, h, busStep, hd]

theorem step_block {s : State} {rest : List Input} (h : s.inputs = .block :: rest) : step s = stepBlock { s with inputs := rest } := by
  simp only [step, h]

/-- While IDLE the block has no transition (R194). -/
theorem stepBlock_idle {s : State} (h : s.phase = .idle) : stepBlock s = .next s := by
  simp only [stepBlock, h]

/-! The pending inputs and the block's transitions (log 4). -/

/-- A state with other inputs pending. -/
def withInputs (l : List Input) (s : State) : State := { s with inputs := l }

@[simp] theorem withInputs_phase (l : List Input) (s : State) : (withInputs l s).phase = s.phase := rfl
@[simp] theorem withInputs_session (l : List Input) (s : State) : (withInputs l s).session = s.session := rfl
@[simp] theorem withInputs_platform (l : List Input) (s : State) : (withInputs l s).platform = s.platform := rfl

/-- An outcome with its next state, where it has one, mapped. -/
def mapNext (f : State → State) : Host.Outcome State Fault Refusal → Host.Outcome State Fault Refusal
  | .next s => .next (f s)
  | .fault r => .fault r
  | .refused r => .refused r

theorem stepCheck_withInputs (l : List Input) (s : State) : stepCheck (withInputs l s) = mapNext (withInputs l) (stepCheck s) := by
  simp only [stepCheck, withInputs_session, withInputs_platform]
  cases checkConfig s.session.cfg with
  | some code => rfl
  | none => cases unsupportedRegion s.platform s.session.cfg <;> rfl

theorem stepConvert_withInputs (l : List Input) (s : State) :
    stepConvert (withInputs l s) = mapNext (withInputs l) (stepConvert s) := by
  by_cases hadm : admitted s.platform (sourceRegion s.session.cfg) = true
  · simp only [stepConvert, withInputs_session, withInputs_platform, hadm, if_true]; rfl
  · simp only [stepConvert, withInputs_session, withInputs_platform, hadm]; rfl

theorem stepPass_withInputs (l : List Input) (s : State) : stepPass (withInputs l s) = mapNext (withInputs l) (stepPass s) := by
  by_cases hlarge : payloadTooLarge (runPass s.session) = true
  · simp only [stepPass, withInputs_session, hlarge, if_true]; rfl
  · simp only [stepPass, withInputs_session, hlarge]; rfl

theorem stepWrite_withInputs (l : List Input) (s : State) : stepWrite (withInputs l s) = mapNext (withInputs l) (stepWrite s) := by
  simp only [stepWrite, withInputs_session, withInputs_platform]
  cases s.session.best with
  | none => rfl
  | some best =>
    by_cases hfit : s.session.cfg.dstCap.toNat < best.size
    · simp only [hfit, if_true]; rfl
    · by_cases hadm : admitted s.platform ((List.range best.size).map (addrPlus s.session.cfg.dstAddr)) = true
      · simp only [hfit, hadm, if_true, if_false]; rfl
      · simp only [hfit, hadm, if_false]; rfl

/-- What the block's transition does is the same whatever inputs are pending, and it leaves them pending (R194). -/
theorem stepBlock_withInputs (l : List Input) (s : State) : stepBlock (withInputs l s) = mapNext (withInputs l) (stepBlock s) := by
  simp only [stepBlock, withInputs_phase]
  cases s.phase with
  | idle => rfl
  | check => exact stepCheck_withInputs l s
  | convert => exact stepConvert_withInputs l s
  | pass => exact stepPass_withInputs l s
  | write => exact stepWrite_withInputs l s

/-- Settles O8: the decoder answers well-formed instructions only, and the block's transition does not look at the pending inputs. -/
theorem stepRunsTheDecodedInstruction : Obligations.StepRunsTheDecodedInstruction := by
  refine ⟨fun s a rest i hin hd => ⟨decode_wellFormed hd, step_bus_instr hin hd⟩, fun s rest => step_block,
    fun s => step_of_no_input, fun s => stepBlock_idle, fun s l => ?_⟩
  have hmap : stepBlock { s with inputs := l } = mapNext (withInputs l) (stepBlock s) := stepBlock_withInputs l s
  have hcong := fun o (h : stepBlock s = o) => hmap.trans (congrArg (mapNext (withInputs l)) h)
  exact ⟨fun t => hcong (.next t), fun f => hcong (.fault f), fun r => hcong (.refused r)⟩

end Sys2Proof.Machine
end

section
/-! The four commands and the sticky flag BAD_CMD (40_commands.md R181 to R188). -/

namespace Sys2Proof.Machine

/-- Settles O12: NOP is no operation, and the word 0 at CMD is NOP. -/
theorem nopChangesNothing : Obligations.NopChangesNothing :=
  fun s => ⟨rfl, exec_wr_cmd_nop s⟩

/-! Acceptance (R183). -/

/-- Setting a flag keeps the reserved bits of STATUS (10_state.md R46). -/
theorem getLsbD_setBit_reserved (w : Word) {i j : Nat} (hi : i < 5) (hj : 5 ≤ j) (b : Bool) :
    (setBit w i b).getLsbD j = w.getLsbD j := by
  rw [getLsbD_setBit w i (by omega), if_neg (by omega)]

/-- Everything acceptance sets and everything it keeps (R183). -/
theorem acceptEncode_accepted (cfg : EncConfig) (s : State) : Accepted cfg s (acceptEncode cfg s) := by
  have hirq : (acceptEncode cfg s).irq = false := by simp [State.irq]
  have hreserved : SameReservedStatus s (acceptEncode cfg s) := by
    intro j hj
    rw [acceptEncode_regs_status, statusAccepted, getLsbD_setBit_reserved _ (by decide) hj, getLsbD_setBit_reserved _ (by decide) hj,
      getLsbD_setBit_reserved _ (by decide) hj]
  exact ⟨rfl, rfl, acceptEncode_busy _ _, acceptEncode_done _ _, acceptEncode_err _ _, acceptEncode_cmdDropped _ _,
    acceptEncode_badCmd _ _, rfl, ⟨rfl, rfl, rfl, rfl⟩, hirq, ⟨rfl, rfl, rfl, rfl, rfl, rfl, rfl, rfl, rfl, rfl, rfl, rfl⟩, hreserved,
    ⟨rfl, rfl, rfl, rfl, rfl, rfl, rfl⟩, rfl, rfl⟩

theorem exec_encode_of_not_busy {s : State} (h : s.busy = false) : exec .encode s = .next (acceptEncode (snapshotEncode s.regs) s) :=
  congrArg _ (unlessBusy_of_not_busy h _)

theorem exec_encodeSimple_of_not_busy {s : State} (h : s.busy = false) :
    exec .encodeSimple s = .next (acceptEncode (snapshotSimple s.regs) s) :=
  congrArg _ (unlessBusy_of_not_busy h _)

theorem exec_clear_of_not_busy {s : State} (h : s.busy = false) : exec .clear s = .next (acknowledge s) :=
  congrArg _ (unlessBusy_of_not_busy h _)

/-- Settles O13: the snapshot ENCODE takes is the configuration of R186. -/
theorem encodeIsAccepted : Obligations.EncodeIsAccepted := by
  intro s hb
  exact ⟨_, exec_encode_of_not_busy hb, acceptEncode_accepted (snapshotEncode s.regs) s⟩

/-- The stride of packed rows of a signed width is `4 * w` mod 2^32 (R187). -/
theorem ofInt_four_mul_asS32 (w : Word) : BitVec.ofInt 32 (4 * asS32 w) = 4#32 * w := by
  rw [asS32, BitVec.ofInt_mul, BitVec.ofInt_toInt]
  rfl

/-- The pixel format 0 is supported (60_exceptions.md R462). -/
theorem checkConfig_of_format_zero {c : EncConfig} (h : c.format = 0) : checkConfig c ≠ some .unsupportedPixelFormat := by
  unfold checkConfig
  split
  · simp
  · rw [if_neg (not_not.mpr h)]
    split
    · simp
    · simp

/-- Settles O14: the snapshot ENCODE_SIMPLE takes is the configuration of R187, whose pixel format is 0. -/
theorem encodeSimpleIsAccepted : Obligations.EncodeSimpleIsAccepted := by
  intro s hb
  rw [← ofInt_four_mul_asS32]
  exact ⟨_, exec_encodeSimple_of_not_busy hb, checkConfig_of_format_zero rfl, acceptEncode_accepted (snapshotSimple s.regs) s⟩

/-! CLEAR (R188). -/

theorem acknowledge_sameReservedStatus (s : State) : SameReservedStatus s (acknowledge s) := by
  intro j hj
  rw [acknowledge_regs_status, statusCleared, getLsbD_setBit_reserved _ (by decide) hj, getLsbD_setBit_reserved _ (by decide) hj,
    getLsbD_setBit_reserved _ (by decide) hj, getLsbD_setBit_reserved _ (by decide) hj]

/-- Settles O15: while not BUSY CLEAR is the acknowledgement of R188, while BUSY it is dropped (R181). -/
theorem clearAcknowledges : Obligations.ClearAcknowledges := by
  refine ⟨fun s hb => ?_, fun s hb => busyDropsCommands s .clear hb (.inr (.inr rfl))⟩
  have hirq : (acknowledge s).irq = false := by simp [State.irq]
  exact ⟨_, exec_clear_of_not_busy hb, (acknowledge_busy s).trans hb, acknowledge_done s, acknowledge_err s, acknowledge_cmdDropped s,
    acknowledge_badCmd s, rfl, ⟨rfl, rfl, rfl, rfl⟩, hirq, ⟨rfl, rfl, rfl, rfl, rfl, rfl, rfl, rfl, rfl, rfl, rfl, rfl⟩,
    acknowledge_sameReservedStatus s, ⟨rfl, rfl, rfl, rfl, rfl, rfl, rfl⟩, rfl, rfl, rfl, rfl⟩

/-! BAD_CMD is sticky (R182). -/

/-- BAD_CMD is a bit of STATUS and of no other state. -/
theorem badCmd_of_sameRegs {s t : State} (h : t.regs = s.regs) : t.badCmd = s.badCmd := by
  rw [State.badCmd, State.badCmd, h]

/-- No transition of the block changes BAD_CMD (R182). -/
theorem stepBlock_badCmd {s t : State} (h : stepBlock s = .next t) : t.badCmd = s.badCmd := by
  rcases stepBlock_cases h with ⟨_, rfl⟩ | ⟨_, h⟩ | ⟨_, h⟩ | ⟨_, h⟩ | ⟨_, h⟩
  · rfl
  · rcases stepCheck_cases h with ⟨_, _, rfl⟩ | ⟨_, _, rfl⟩
    · exact raiseError_badCmd _ _
    · rfl
  · rcases stepConvert_cases h with ⟨_, rfl⟩ | ⟨_, rfl⟩ <;> rfl
  · rcases stepPass_cases h with ⟨_, rfl⟩ | ⟨_, rfl⟩
    · exact raiseError_badCmd _ _
    · rfl
  · obtain ⟨best, _, ⟨_, rfl⟩ | ⟨_, rfl | rfl⟩⟩ := stepWrite_cases h
    · exact raiseError_badCmd _ _
    · exact complete_badCmd _ _
    · rfl

/-- A command keeps BAD_CMD when its effect does, dropped or not (R181). -/
theorem unlessBusy_badCmd {effect : State → State} {s : State} (h : (effect s).badCmd = s.badCmd) :
    (unlessBusy effect s).badCmd = s.badCmd := by
  rcases unlessBusy_cases effect s with ⟨_, e⟩ | ⟨_, e⟩ <;> rw [e]
  · exact dropCommand_badCmd s
  · exact h

/-- No well-formed instruction but CLEAR while not BUSY clears BAD_CMD (R182, R188); a WR of CLEAR's word to CMD is not well formed (log 22). -/
theorem exec_badCmd {i : Instr} {s t : State} (hwf : i.WellFormed) (h : exec i s = .next t) (hb : s.badCmd = true) :
    t.badCmd = true ∨ i = .clear ∧ s.busy = false := by
  cases i with
  | nop =>
    cases h
    exact .inl hb
  | encode =>
    cases h
    exact .inl ((unlessBusy_badCmd (acceptEncode_badCmd _ s)).trans hb)
  | encodeSimple =>
    cases h
    exact .inl ((unlessBusy_badCmd (acceptEncode_badCmd _ s)).trans hb)
  | clear =>
    cases h
    rcases unlessBusy_cases acknowledge s with ⟨_, e⟩ | ⟨hidle, _⟩
    · exact .inl ((congrArg State.badCmd e).trans ((dropCommand_badCmd s).trans hb))
    · exact .inr ⟨rfl, hidle⟩
  | rd o =>
    simp only [exec, execRd] at h
    split at h
    · cases h
      exact .inl hb
    · cases h
  | wr o d =>
    obtain ⟨ho, hnotCommand⟩ := wellFormed_wr_iff.mp hwf
    by_cases hcmd : o = cmdOffset
    · subst hcmd
      cases (exec_wr_cmd_illegal (hnotCommand rfl) s).symm.trans h
      exact .inl (flagBadCommand_badCmd s)
    · rw [exec, execWr, if_pos ho, if_neg hcmd] at h
      cases h
      obtain ⟨hstatus, _⟩ := writeOffset_readOnly o d s.regs
      exact .inl ((congrArg (·.getLsbD badCmdBit) hstatus).trans hb)

/-- Settles O17: an illegal word is `flagBadCommand`, and of the cases of a step the reset input and CLEAR alone clear the flag. -/
theorem badCmdIsSticky : Obligations.BadCmdIsSticky := by
  refine ⟨fun s w hw => ?_, fun s t hst hb => ?_⟩
  · have hillegal : legalCommand w = false := Bool.eq_false_iff.mpr fun h => absurd ((legalCommand_iff w).mp h) (not_le.mpr hw)
    rw [exec_wr_cmd_illegal hillegal, flagBadCommand_eq]
  · rcases step_cases hst with ⟨_, hx⟩ | ⟨rest, hcase⟩
    · exact .inl ((stepBlock_badCmd hx).trans hb)
    rcases hcase with ⟨_, hx⟩ | ⟨a, i, hin, hd, hx⟩ | ⟨hin, _⟩ | ⟨a, b, _, rfl⟩ | ⟨a, _, rfl⟩ | ⟨a, _, rfl⟩ | ⟨a, _, rfl⟩
    · exact .inl ((stepBlock_badCmd hx).trans hb)
    · rcases exec_badCmd (decode_wellFormed hd) hx hb with hkept | ⟨rfl, hidle⟩
      · exact .inl hkept
      · exact .inr (.inr ⟨a, rest, hin, hd, hidle⟩)
    · exact .inr (.inl ⟨rest, hin⟩)
    · obtain ⟨hr, _⟩ := storeEffect_block a.toNat b { s with inputs := rest }
      exact .inl ((badCmd_of_sameRegs hr).trans hb)
    · obtain ⟨hr, _⟩ := loadEffect_block a.toNat { s with inputs := rest }
      exact .inl ((badCmd_of_sameRegs hr).trans hb)
    · obtain ⟨hr, _⟩ := cleanEffect_block a.toNat { s with inputs := rest }
      exact .inl ((badCmd_of_sameRegs hr).trans hb)
    · exact .inl hb

end Sys2Proof.Machine
end

section
/-! The block's transitions from acceptance to the end of an encode (40_commands.md R190 to R199; 45_rate_control.md R407). -/

namespace Sys2Proof.Machine

/-! The end of a run. -/

/-- Some run of at most `n` steps ends the encode (R199). -/
def EndsWithin (n : Nat) (s : State) : Prop := ∃ m t, m ≤ n ∧ Host.Core.run core m s = .next t ∧ Settled t

theorem EndsWithin.of_settled {s : State} (h : Settled s) (n : Nat) : EndsWithin n s := ⟨0, s, Nat.zero_le n, run_zero s, h⟩

theorem EndsWithin.of_step {n : Nat} {s t : State} (hst : step s = .next t) (h : EndsWithin n t) : EndsWithin (n + 1) s := by
  obtain ⟨m, u, hm, hrun, hu⟩ := h
  exact ⟨m + 1, u, Nat.succ_le_succ hm, (run_succ m hst).trans hrun, hu⟩

theorem EndsWithin.mono {m n : Nat} (hmn : m ≤ n) {s : State} (h : EndsWithin m s) : EndsWithin n s := by
  obtain ⟨k, t, hk, hrun, ht⟩ := h
  exact ⟨k, t, hk.trans hmn, hrun, ht⟩

/-- Error entry ends the encode (R470). -/
theorem raiseError_settled (code : ErrorCode) (s : State) : Settled (raiseError code s) := by
  simp [Settled]

/-- Completion ends an encode in which no error was raised (R197). -/
theorem complete_settled (best : PassResult) {s : State} (h : s.err = false) : Settled (complete best s) := by
  simp [Settled, h]

/-! An encode nothing disturbs. -/

/-- An encode over supported buffers while the host is silent. -/
structure Undisturbed (s : State) : Prop where
  inv : MachineInv s
  silent : s.inputs = []
  supported : Supported s.platform s.session.cfg

/-- A transition that keeps the snapshot leaves the encode undisturbed. -/
theorem Undisturbed.of_step {s t : State} (h : Undisturbed s) (hst : step s = .next t) (hi : t.inputs = s.inputs)
    (hp : t.platform = s.platform) (hc : t.session.cfg = s.session.cfg) : Undisturbed t :=
  ⟨machineInvIsKept s t h.inv hst, hi.trans h.silent, by rw [hp, hc]; exact h.supported⟩

/-- Supported buffers are not refused once the dimensions have passed their check (R109, R113). -/
theorem unsupportedRegion_of_supported {p : Platform} {c : EncConfig} (h : Supported p c) (hc : checkConfig c = none) :
    unsupportedRegion p c = none := by
  obtain ⟨hsrc, hdst⟩ := h
  refine (unsupportedRegion_eq_none_iff p c).mpr ⟨?_, ?_⟩
  · refine Bool.eq_false_iff.mpr fun hmeet => ?_
    rcases (buffersMeetWindow_iff p (width_le_of_checkConfig hc)).mp hmeet with ⟨a, ha, hin⟩ | ⟨a, ha, hin⟩
    · exact Bool.false_ne_true ((hsrc a ha).1.symm.trans hin)
    · exact Bool.false_ne_true ((hdst a ha).1.symm.trans hin)
  · refine Bool.eq_false_iff.mpr fun hdev => ?_
    obtain ⟨a, ha, hk⟩ := (touchesDevice_iff p _).mp hdev
    cases (hsrc a ha).2.symm.trans hk

/-- The addresses of a file that fits supported buffers are admitted (R110, R112). -/
theorem admitted_file_of_supported {p : Platform} {c : EncConfig} (h : Supported p c) {size : Nat} (hfit : size ≤ c.dstCap.toNat) :
    admitted p ((List.range size).map (addrPlus c.dstAddr)) = true := by
  refine admitted_of_ram fun a ha => ?_
  obtain ⟨i, hi, rfl⟩ := List.mem_map.mp ha
  exact (h.2 _ ((mem_destRegion_iff c _).mpr ⟨i, (List.mem_range.mp hi).trans_le hfit, rfl⟩)).2

/-- WRITE ends the encode: with the overflow error, or with the file stored (R193, R440). -/
theorem Undisturbed.write_ends {s : State} (h : Undisturbed s) (hp : s.phase = .write) : EndsWithin 1 s := by
  obtain ⟨hregs, ⟨_, hwrite⟩, _⟩ := h.inv
  obtain ⟨_, _, hbest⟩ := hwrite hp
  obtain ⟨best, hb⟩ := Option.ne_none_iff_exists'.mp hbest
  obtain ⟨_, herr, _⟩ := hregs.running (by simp [hp])
  have hblock : step s = stepWrite s := by rw [step_of_no_input h.silent, stepBlock, hp]
  by_cases hfit : s.session.cfg.dstCap.toNat < best.size
  · have hst : step s = .next (raiseError .encodingOverflow s) := by simp only [hblock, stepWrite, hb, if_pos hfit]
    exact .of_step hst (.of_settled (raiseError_settled _ _) 0)
  · have hadm := admitted_file_of_supported h.supported (not_lt.mp hfit)
    have hst : step s = .next (complete best { s with mem := writeCells s.mem (writtenCells s best.file), freeCount := s.freeCount + 1 }) := by
      simp only [hblock, stepWrite, hb, if_neg hfit, hadm, if_true]
    refine .of_step hst (.of_settled (complete_settled best ?_) 0)
    exact herr

/-- A pass always has an outcome: an error, or the rate controller's verdict (R192). -/
theorem stepPass_answers (s : State) : ∃ t, stepPass s = .next t := by
  simp only [stepPass]
  split
  · exact ⟨_, rfl⟩
  · exact ⟨_, rfl⟩

theorem phaseAfter_cases (v : RateVerdict) : phaseAfter v = .write ∨ phaseAfter v = .pass := by
  cases v with
  | stop => exact .inl rfl
  | again q => exact .inr rfl

/-- With `n` passes left before MAX_PASSES, at most those and WRITE are to come (R407). -/
theorem Undisturbed.pass_ends {n : Nat} {s : State} (h : Undisturbed s) (hp : s.phase = .pass)
    (hn : Config.maxPasses ≤ s.session.k + n) : EndsWithin (n + 1) s := by
  induction n generalizing s with
  | zero =>
    obtain ⟨_, ⟨hpass, _⟩, _⟩ := h.inv
    obtain ⟨hk, _⟩ := hpass hp
    exact absurd hn (not_le.mpr hk)
  | succ n ih =>
    obtain ⟨t, ht⟩ := stepPass_answers s
    have hst : step s = .next t := by rw [step_of_no_input h.silent, stepBlock, hp]; exact ht
    refine .of_step hst ?_
    rcases stepPass_cases ht with ⟨_, rfl⟩ | ⟨_, rfl⟩
    · exact .of_settled (raiseError_settled _ _) _
    · obtain ⟨hcfg, _, _, _, hk, _⟩ := rateStep_keeps (runPass s.session) (runPass s.session).result
      have hnext := h.of_step hst rfl rfl hcfg
      rcases phaseAfter_cases (rateStep (runPass s.session) (runPass s.session).result).2 with hw | hpass
      · exact (hnext.write_ends hw).mono (Nat.le_add_left 1 n)
      · refine ih hnext hpass ?_
        rw [hk, runPass_k]
        omega

/-- CONVERT leads to the first of at most MAX_PASSES passes (R191, R407). -/
theorem Undisturbed.convert_ends {s : State} (h : Undisturbed s) (hp : s.phase = .convert) : EndsWithin (Config.maxPasses + 2) s := by
  have hst := step_convert hp h.silent (admitted_of_ram fun a ha => (h.supported.1 a ha).2)
  exact .of_step hst ((h.of_step hst rfl rfl rfl).pass_ends rfl (Nat.le_add_left _ _))

/-- CHECK ends the encode with an error or leads to CONVERT (R190). -/
theorem Undisturbed.check_ends {s : State} (h : Undisturbed s) (hp : s.phase = .check) : EndsWithin (Config.maxPasses + 3) s := by
  cases hc : checkConfig s.session.cfg with
  | some code =>
    have hst : step s = .next (raiseError code s) := by simp only [step_of_no_input h.silent, stepBlock, hp, stepCheck, hc]
    exact .of_step hst (.of_settled (raiseError_settled _ _) _)
  | none =>
    have hst := step_check_supported hp h.silent hc (unsupportedRegion_of_supported h.supported hc)
    exact .of_step hst ((h.of_step hst rfl rfl rfl).convert_ends rfl)

/-- Settles O28: CHECK, CONVERT, at most MAX_PASSES = 8 passes and WRITE are 11 transitions. -/
theorem encodeTerminates : Obligations.EncodeTerminates := by
  intro s hinv hp hi hsup
  exact Undisturbed.check_ends ⟨hinv, hi, hsup⟩ hp

end Sys2Proof.Machine
end

section
/-! The planes are a function of the colour bytes alone (41_color_transform.md R221, R227, R229). -/

namespace Sys2Proof.Machine

/-- With no racing store, memories that agree on the colour bytes of a pixel give the same colour samples (R229). -/
theorem readPixel_congr {s t : State} {c : EncConfig} {x y : Nat} (hs : s.srcRace = []) (ht : t.srcRace = [])
    (h : ∀ j < 3, readByte s.mem (sourceAddr c x y j).toNat = readByte t.mem (sourceAddr c x y j).toNat) :
    readPixel s c x y = readPixel t c x y := by
  have hbyte : ∀ j < 3, sourceByte s (sourceAddr c x y j) = sourceByte t (sourceAddr c x y j) := fun j hj => by
    rw [sourceByte_of_no_race hs, sourceByte_of_no_race ht, h j hj]
  rw [readPixel, readPixel, hbyte 0 (by decide), hbyte 1 (by decide), hbyte 2 (by decide)]

/-- The sample arrays are the colour samples of the pixels inside the image (R221). -/
theorem readSource_congr {s t : State} {c : EncConfig} (h : ∀ y < c.h, ∀ x < c.w, readPixel s c x y = readPixel t c x y) :
    readSource s c = readSource t c :=
  List.map_congr_left fun y hy => List.map_congr_left fun x hx => h y (List.mem_range.mp hy) x (List.mem_range.mp hx)

/-- The machine enters a conversion through the sample arrays only (R220, R227). -/
theorem convertPlanes_congr {s t : State} {ses : Session} (h : readSource s ses.cfg = readSource t ses.cfg) :
    convertPlanes s ses = convertPlanes t ses := by
  rw [convertPlanes, convertPlanes, h]

/-- Settles O38: a pixel's samples are read from its three colour bytes, the arrays from the pixels, and the planes from the arrays. -/
theorem alphaIsDiscarded : Obligations.AlphaIsDiscarded := by
  intro s t ses hs ht hagree
  have hpixel : ∀ y < ses.cfg.h, ∀ x < ses.cfg.w, readPixel s ses.cfg x y = readPixel t ses.cfg x y :=
    fun y hy x hx => readPixel_congr hs ht (hagree y hy x hx)
  exact convertPlanes_congr (readSource_congr hpixel)

end Sys2Proof.Machine
end

section
/-! The Macroblock Predictor (42_intra_prediction.md R253 to R259): edges, predictors sample by sample, and the choice of the luma mode. -/

namespace Sys2Proof.Machine

/-! The DC value (R256, R259). -/

/-- The samples of an edge are bytes, so their sum is at most 255 each. -/
theorem edgeSum_le (e : List Byte) : edgeSum e ≤ 255 * e.length := by
  have hbyte : ∀ n ∈ e.map BitVec.toNat, n ≤ 255 := fun n hn => by
    obtain ⟨b, _, rfl⟩ := List.mem_map.mp hn
    omega
  have hsum := List.sum_le_card_nsmul _ 255 hbyte
  rwa [List.length_map, smul_eq_mul, Nat.mul_comm] at hsum

/-- A shifted sum that fits a byte is kept whole. -/
theorem ofNat_shiftRight_toNat {v n : Nat} (h : v < 2 ^ n * 256) : (BitVec.ofNat 8 (v >>> n)).toNat = v / 2 ^ n := by
  rw [BitVec.toNat_ofNat, Nat.shiftRight_eq_div_pow, Nat.mod_eq_of_lt (Nat.div_lt_of_lt_mul h)]

/-- The DC value is the rounded average of the available edges: the average of bytes is a byte. -/
theorem dcValue_toNat (e : Edges) {lg : Nat} (hlg : 1 ≤ lg) (ha : e.above.length = 2 ^ lg) (hl : e.left.length = 2 ^ lg) :
    (dcValue e lg).toNat =
      if e.aboveAvail ∧ e.leftAvail then (edgeSum e.above + edgeSum e.left + 2 ^ lg) / 2 ^ (lg + 1)
      else if e.aboveAvail then (edgeSum e.above + 2 ^ (lg - 1)) / 2 ^ lg
      else if e.leftAvail then (edgeSum e.left + 2 ^ (lg - 1)) / 2 ^ lg
      else 128 := by
  have habove := edgeSum_le e.above
  have hleft := edgeSum_le e.left
  have hpos : 0 < 2 ^ (lg - 1) := Nat.two_pow_pos _
  have hhalf : 2 ^ (lg - 1) < 2 ^ lg := Nat.pow_lt_pow_right (by decide) (by omega)
  have hdouble : 2 ^ (lg + 1) = 2 ^ lg * 2 := pow_succ 2 lg
  unfold dcValue
  split_ifs
  · exact ofNat_shiftRight_toNat (by omega)
  · exact ofNat_shiftRight_toNat (by omega)
  · exact ofNat_shiftRight_toNat (by omega)
  · rfl

/-! The edges (R255). -/

section EdgeSamples

variable (rec : Plane) (sz r c : Nat)

/-- The sample above column `x` of a macroblock (R255). -/
theorem edgesAt_above {x : Nat} (hx : x < sz) :
    (edgesAt rec sz r c).above.getD x 0 = if 0 < r then planeAt rec (sz * r - 1) (sz * c + x) else 127 :=
  getD_map_range _ hx 0

/-- The sample left of row `y` of a macroblock (R255). -/
theorem edgesAt_left {y : Nat} (hy : y < sz) :
    (edgesAt rec sz r c).left.getD y 0 = if 0 < c then planeAt rec (sz * r + y) (sz * c - 1) else 129 :=
  getD_map_range _ hy 0

/-- The sample above and left of a macroblock (R255). -/
theorem edgesAt_corner :
    (edgesAt rec sz r c).corner = if 0 < r ∧ 0 < c then planeAt rec (sz * r - 1) (sz * c - 1) else if r = 0 then 127 else 129 := rfl

/-- The sum of the edge above, below the first row of macroblocks. -/
theorem edgeSum_above {r : Nat} (hr : 0 < r) :
    edgeSum (edgesAt rec sz r c).above = ((List.range sz).map fun i => (planeAt rec (sz * r - 1) (sz * c + i)).toNat).sum := by
  simp only [edgeSum, edgesAt, if_pos hr, List.map_map, Function.comp_def]

/-- The sum of the edge on the left, right of the first column of macroblocks. -/
theorem edgeSum_left {c : Nat} (hc : 0 < c) :
    edgeSum (edgesAt rec sz r c).left = ((List.range sz).map fun j => (planeAt rec (sz * r + j) (sz * c - 1)).toNat).sum := by
  simp only [edgeSum, edgesAt, if_pos hc, List.map_map, Function.comp_def]

/-- The DC value of a macroblock with edges of `2 ^ lg` samples, from the samples of the plane. -/
theorem dcValue_edgesAt {lg : Nat} (hlg : 1 ≤ lg) (hsz : sz = 2 ^ lg) :
    (dcValue (edgesAt rec sz r c) lg).toNat =
      let above := ((List.range sz).map fun i => (planeAt rec (sz * r - 1) (sz * c + i)).toNat).sum
      let left := ((List.range sz).map fun j => (planeAt rec (sz * r + j) (sz * c - 1)).toNat).sum
      if 0 < r ∧ 0 < c then (above + left + 2 ^ lg) / 2 ^ (lg + 1)
      else if 0 < r then (above + 2 ^ (lg - 1)) / 2 ^ lg
      else if 0 < c then (left + 2 ^ (lg - 1)) / 2 ^ lg
      else 128 := by
  rw [dcValue_toNat _ hlg (by simp [edgesAt, hsz]) (by simp [edgesAt, hsz])]
  have havail : (edgesAt rec sz r c).aboveAvail = decide (0 < r) ∧ (edgesAt rec sz r c).leftAvail = decide (0 < c) := ⟨rfl, rfl⟩
  simp only [havail, decide_eq_true_eq]
  split_ifs with hboth hr hc
  · rw [edgeSum_above _ _ _ hboth.1, edgeSum_left _ _ _ hboth.2]
  · rw [edgeSum_above _ _ _ hr]
  · rw [edgeSum_left _ _ _ hc]
  · rfl

end EdgeSamples

/-! The predictors (R256, R259). -/

/-- `clip255` as an integer: the nearest value in 0..255 (R13). -/
theorem clip255_toInt (v : Int) : ((clip255 v).toNat : Int) = max 0 (min 255 v) := by
  rw [clip255, clamp, BitVec.toNat_ofNat]
  omega

/-- Clipping a sample leaves it. -/
theorem clip255_sampleInt (b : Byte) : clip255 (sampleInt b) = b := by
  have hclip := clip255_toInt b.toNat
  have hb : b.toNat < 256 := b.isLt
  rw [sampleInt]
  apply BitVec.eq_of_toNat_eq
  omega

section Predictors

variable (e : Edges) {y x : Nat}

theorem predictLuma_dc (hy : y < 16) (hx : x < 16) : planeAt (predictLuma .dcPred e) y x = dcValue e 4 := planeAt_planeOf _ hy hx

theorem predictLuma_v (hy : y < 16) (hx : x < 16) : planeAt (predictLuma .vPred e) y x = e.above.getD x 0 := planeAt_planeOf _ hy hx

theorem predictLuma_h (hy : y < 16) (hx : x < 16) : planeAt (predictLuma .hPred e) y x = e.left.getD y 0 := planeAt_planeOf _ hy hx

theorem predictLuma_tm (hy : y < 16) (hx : x < 16) :
    planeAt (predictLuma .tmPred e) y x = clip255 (sampleInt (e.left.getD y 0) + sampleInt (e.above.getD x 0) - sampleInt e.corner) :=
  planeAt_planeOf _ hy hx

theorem predictChroma_dc (hy : y < 8) (hx : x < 8) : planeAt (predictChroma e) y x = dcValue e 3 := planeAt_planeOf _ hy hx

end Predictors

/-- Planes made alike of the same samples are equal. -/
theorem planeOf_congr {h w : Nat} {f g : Nat → Nat → Byte} (hfg : ∀ y < h, ∀ x < w, f y x = g y x) : planeOf h w f = planeOf h w g :=
  List.map_congr_left fun y hy => List.map_congr_left fun x hx => hfg y (List.mem_range.mp hy) x (List.mem_range.mp hx)

/-- TM_PRED is H_PRED where the samples above all equal the corner. -/
theorem predictLuma_tm_eq_h {e : Edges} (h : ∀ x < 16, e.above.getD x 0 = e.corner) : predictLuma .tmPred e = predictLuma .hPred e :=
  planeOf_congr fun y _ x hx => by rw [h x hx, add_sub_cancel_right, clip255_sampleInt]

/-- TM_PRED is V_PRED where the samples on the left all equal the corner. -/
theorem predictLuma_tm_eq_v {e : Edges} (h : ∀ y < 16, e.left.getD y 0 = e.corner) : predictLuma .tmPred e = predictLuma .vPred e :=
  planeOf_congr fun y hy x _ => by rw [h y hy, add_sub_cancel_left, clip255_sampleInt]

/-- On the top row of macroblocks every sample above is the corner's 127 (R255). -/
theorem predictLuma_tm_top (rec : Plane) (c : Nat) : predictLuma .tmPred (edgesAt rec 16 0 c) = predictLuma .hPred (edgesAt rec 16 0 c) :=
  predictLuma_tm_eq_h fun x hx => by rw [edgesAt_above _ _ _ _ hx, edgesAt_corner]; simp

/-- On the left column, below the top row, every sample on the left is the corner's 129 (R255). -/
theorem predictLuma_tm_leftmost (rec : Plane) {r : Nat} (hr : 0 < r) :
    predictLuma .tmPred (edgesAt rec 16 r 0) = predictLuma .vPred (edgesAt rec 16 r 0) :=
  predictLuma_tm_eq_v fun y hy => by rw [edgesAt_left _ _ _ _ hy, edgesAt_corner]; simp [hr.ne']

/-- Settles O39: each predictor's sample is its rule on the edges, the edges are samples of the plane, and the corner cases are edges of one
value. -/
theorem lumaPredictors : Obligations.LumaPredictors := by
  refine ⟨?_, ?_, predictLuma_tm_top, fun rec r hr => predictLuma_tm_leftmost rec hr, ?_⟩
  · intro rec r c y x hy hx e a l p sum
    have habove : (e.above.getD x 0).toNat = a x := by rw [edgesAt_above _ _ _ _ hx, apply_ite BitVec.toNat]; rfl
    have hleft : (e.left.getD y 0).toNat = l y := by rw [edgesAt_left _ _ _ _ hy, apply_ite BitVec.toNat]; rfl
    have hcorner : e.corner.toNat = p := by rw [edgesAt_corner, apply_ite BitVec.toNat, apply_ite BitVec.toNat]; rfl
    refine ⟨?_, ?_, ?_, ?_⟩
    · rw [predictLuma_dc _ hy hx, dcValue_edgesAt rec 16 r c (lg := 4) (by decide) rfl]
      split_ifs with hboth hr hc
      · simp only [sum, a, l, if_pos hboth.1, if_pos hboth.2]
        rfl
      · simp only [sum, a, if_pos hr]
        rfl
      · simp only [sum, l, if_pos hc]
        rfl
      · rfl
    · rw [predictLuma_v _ hy hx, habove]
    · rw [predictLuma_h _ hy hx, hleft]
    · rw [predictLuma_tm _ hy hx, clip255_toInt]
      simp only [sampleInt, habove, hleft, hcorner]
  · intro rec r c y x hy hx a l sum
    rw [predictChroma_dc _ hy hx, dcValue_edgesAt rec 8 r c (lg := 3) (by decide) rfl]
    rfl
  · intro rec y x hy hx
    rw [predictLuma_tm_top, predictLuma_dc _ hy hx, predictLuma_v _ hy hx, predictLuma_h _ hy hx, edgesAt_above _ _ _ _ hx,
      edgesAt_left _ _ _ _ hy]
    exact ⟨rfl, rfl, rfl, rfl⟩

/-! The choice of the luma mode (R257). -/

/-- The mode chosen is one of the modes looked at. -/
theorem cheapest_mem (cost : LumaMode → Nat) (best : LumaMode) (ms : List LumaMode) : cheapest cost best ms ∈ best :: ms := by
  induction ms generalizing best with
  | nil => exact List.mem_singleton_self best
  | cons m ms ih =>
    rw [cheapest]
    split
    · exact List.mem_cons_of_mem best (ih m)
    · exact List.cons_subset_cons best (List.subset_cons_self m ms) (ih best)

/-- The mode chosen from modes in index order costs least, and of the modes that cost as little it has the lowest index. -/
theorem cheapest_least (cost : LumaMode → Nat) {best : LumaMode} {ms : List LumaMode}
    (hsorted : (best :: ms).Pairwise fun a b => modeIndex a < modeIndex b) :
    ∀ m' ∈ best :: ms, cost (cheapest cost best ms) ≤ cost m' ∧
      (cost m' = cost (cheapest cost best ms) → modeIndex (cheapest cost best ms) ≤ modeIndex m') := by
  induction ms generalizing best with
  | nil => exact List.forall_mem_singleton.mpr ⟨le_rfl, fun _ => le_rfl⟩
  | cons m ms ih =>
    obtain ⟨hbest, htail⟩ := List.pairwise_cons.mp hsorted
    obtain ⟨hbm, hbms⟩ := List.forall_mem_cons.mp hbest
    rw [cheapest, List.forall_mem_cons, List.forall_mem_cons]
    split
    next hlt =>
      obtain ⟨hm, hms⟩ := List.forall_mem_cons.mp (ih htail)
      exact ⟨by omega, hm, hms⟩
    next hge =>
      have hkept : (best :: ms).Pairwise fun a b => modeIndex a < modeIndex b :=
        List.pairwise_cons.mpr ⟨hbms, (List.pairwise_cons.mp htail).2⟩
      obtain ⟨hb, hms⟩ := List.forall_mem_cons.mp (ih hkept)
      exact ⟨hb, by omega, hms⟩

/-- Every method's candidates are DC_PRED and the modes the choice runs over, in index order (R253). -/
theorem candidates_sorted (method : Nat) :
    candidates method = .dcPred :: (candidates method).drop 1 ∧ (candidates method).Pairwise fun a b => modeIndex a < modeIndex b := by
  unfold candidates
  split_ifs <;> decide

/-- The cost, row by row (R257). -/
theorem sad_eq (a b : Plane) :
    sad a b = ((List.range 16).map fun y => ((List.range 16).map fun x =>
      (((planeAt a y x).toNat : Int) - (planeAt b y x).toNat).natAbs).sum).sum := by
  rw [sad, List.flatMap_def, List.sum_flatten, List.map_map]
  rfl

/-- Settles O40: the choice over the method's candidates, which stand in index order, keeps the cheapest and of equals the first. -/
theorem selectionIsTheCheapestMode : Obligations.SelectionIsTheCheapestMode := by
  refine ⟨rfl, fun method h1 h3 => ?_, fun method h4 h6 => ?_, ⟨rfl, rfl, rfl, rfl⟩, ?_⟩
  · rw [candidates, if_neg (by omega), if_pos h3]
  · rw [candidates, if_neg (by omega), if_neg (by omega)]
  · intro method src e cost m
    have hcost : (fun m => sad src (predictLuma m e)) = cost := funext fun m => sad_eq _ _
    have hm : m = cheapest cost .dcPred ((candidates method).drop 1) := congrArg (cheapest · _ _) hcost
    obtain ⟨hcons, hsorted⟩ := candidates_sorted method
    rw [hcons] at hsorted
    rw [hm, hcons]
    exact ⟨cheapest_mem _ _ _, cheapest_least cost hsorted⟩

end Sys2Proof.Machine
end

section
/-! The analysis of a pass (40_commands.md R192; 42_intra_prediction.md R250, R258; 43_transform_quant.md R323, R330 to R334): the levels and the
reconstruction of one macroblock, entry by entry, and the pass as macroblocks in raster order. -/

namespace Sys2Proof.Machine

/-! Lists of blocks. -/

/-- An entry inside a mapped list. -/
theorem getD_map_of_lt {α β : Type} (f : α → β) {l : List α} {i : Nat} (hi : i < l.length) (d : β) (d' : α) :
    (l.map f).getD i d = f (l.getD i d') := by
  rw [List.getD_eq_getElem _ _ (by simpa using hi), List.getD_eq_getElem _ _ hi, List.getElem_map]

/-- An entry of a block treated by position (R321). -/
theorem coefAt_byKind (dc ac : Int → Int) (c : List Int) {k : Nat} (hk : k < 16) :
    coefAt (byKind dc ac c) k = if k = 0 then dc (coefAt c 0) else ac (coefAt c k) :=
  getD_map_range _ hk 0

theorem byKind_length (dc ac : Int → Int) (c : List Int) : (byKind dc ac c).length = 16 := by simp [byKind]

/-- A block quantized with the step of each position (R322). -/
theorem coefAt_byKind_quant (dc ac : Nat) (c : List Int) {k : Nat} (hk : k < 16) :
    coefAt (byKind (fun x => quant x dc) (fun x => quant x ac) c) k = quant (coefAt c k) (if k = 0 then dc else ac) := by
  rw [coefAt_byKind _ _ _ hk]
  split
  next h => rw [h]
  next => rfl

/-- A block dequantized with the step of each position (R323). -/
theorem byKind_dequant (dc ac : Nat) (c : List Int) :
    byKind (fun l => dequant l dc) (fun l => dequant l ac) c =
      (List.range 16).map fun k => coefAt c k * ((if k = 0 then dc else ac : Nat) : Int) := by
  refine List.map_congr_left fun k _ => ?_
  split
  next h => rw [h]; rfl
  next => rfl

/-! The residual (41_color_transform.md R228; R292). -/

/-- The residual of block `b` of the `n` by `n` blocks of macroblock (r, c), from the samples of the source plane. -/
def mbResidual (p pred : Plane) (sz r c n b : Nat) : List Int :=
  (List.range 16).map fun k =>
    ((planeAt p (sz * r + 4 * (b / n) + k / 4) (sz * c + 4 * (b % n) + k % 4)).toNat : Int) -
      (planeAt pred (4 * (b / n) + k / 4) (4 * (b % n) + k % 4)).toNat

/-- The residual of a 4x4 block inside a source block reads the source plane at the block's place. -/
theorem residual_blockOf (p pred : Plane) {sz n b : Nat} (r c : Nat) (hsz : sz = 4 * n) (hb : b < n * n) :
    residual (blockOf p sz r c) pred (b / n) (b % n) = mbResidual p pred sz r c n b := by
  have hn : 0 < n := Nat.pos_of_ne_zero fun h => by simp [h] at hb
  have hrow : b / n < n := Nat.div_lt_of_lt_mul hb
  have hcol : b % n < n := Nat.mod_lt b hn
  refine List.map_congr_left fun k hk => ?_
  have hk16 : k < 16 := List.mem_range.mp hk
  rw [blockOf, planeAt_planeOf _ (by omega) (by omega), ← Nat.add_assoc, ← Nat.add_assoc]
  rfl

/-- The forward DCTs of a macroblock's blocks, from the samples of the source plane. -/
theorem forwardBlocks_blockOf (p pred : Plane) {sz n : Nat} (r c : Nat) (hsz : sz = 4 * n) :
    forwardBlocks n (blockOf p sz r c) pred = (List.range (n * n)).map fun b => fdct (mbResidual p pred sz r c n b) :=
  List.map_congr_left fun _ hb => congrArg fdct (residual_blockOf p pred r c hsz (List.mem_range.mp hb))

/-! The levels (R330, R331, R332). -/

theorem lumaLevels_length (q : QIndex) (src pred : Plane) : (lumaLevels q (forwardBlocks 4 src pred)).length = 16 := by
  simp [lumaLevels, forwardBlocks]

theorem chromaLevels_length (q : QIndex) (src pred : Plane) : (chromaLevels q (forwardBlocks 2 src pred)).length = 4 := by
  simp [chromaLevels, forwardBlocks]

theorem y2Levels_length (q : QIndex) (coefs : List (List Int)) : (y2Levels q coefs).length = 16 := byKind_length _ _ _

/-- A quantized block has 16 levels. -/
theorem length_of_mem_map_byKind {dc ac : Int → Int} {coefs : List (List Int)} {lv : List Int} (h : lv ∈ coefs.map (byKind dc ac)) :
    lv.length = 16 := by
  obtain ⟨c, _, rfl⟩ := List.mem_map.mp h
  exact byKind_length dc ac c

section Levels

variable (q : QIndex) (p pred : Plane) (r c : Nat) {b k : Nat}

/-- The luma levels of a macroblock: position 0 is 0, its DC being coded in Y2 (R330). -/
theorem coefAt_lumaLevels (hb : b < 16) (hk : k < 16) :
    coefAt ((lumaLevels q (forwardBlocks 4 (blockOf p 16 r c) pred)).getD b []) k =
      if k = 0 then 0 else quant (coefAt (fdct (mbResidual p pred 16 r c 4 b)) k) (y1ac q) := by
  rw [forwardBlocks_blockOf p pred r c rfl, lumaLevels, List.map_map, getD_map_range _ hb, Function.comp_apply, coefAt_byKind _ _ _ hk]

/-- The Y2 levels of a macroblock: the WHT of its blocks' DCs (R331). -/
theorem coefAt_y2Levels (hk : k < 16) :
    coefAt (y2Levels q (forwardBlocks 4 (blockOf p 16 r c) pred)) k =
      quant (coefAt (fwht ((List.range 16).map fun b => coefAt (fdct (mbResidual p pred 16 r c 4 b)) 0)) k)
        (if k = 0 then y2dc q else y2ac q) := by
  rw [forwardBlocks_blockOf p pred r c rfl, y2Levels, List.map_map, coefAt_byKind_quant _ _ _ hk]
  rfl

/-- The levels of a chroma plane's blocks (R332). -/
theorem coefAt_chromaLevels (hb : b < 4) (hk : k < 16) :
    coefAt ((chromaLevels q (forwardBlocks 2 (blockOf p 8 r c) pred)).getD b []) k =
      quant (coefAt (fdct (mbResidual p pred 8 r c 2 b)) k) (if k = 0 then uvdc q else uvac q) := by
  rw [forwardBlocks_blockOf p pred r c rfl, chromaLevels, List.map_map, getD_map_range _ hb, Function.comp_apply, coefAt_byKind_quant _ _ _ hk]

end Levels

/-! The reconstruction (R333, R334). -/

/-- The dequantized luma block `b`: its DC is the inverse WHT's (R333). -/
theorem lumaDequant_getD (q : QIndex) (y2 : List Int) (y : List (List Int)) {b : Nat} (hb : b < 16) :
    (lumaDequant q y2 y).getD b [] =
      (List.range 16).map fun k =>
        if k = 0 then coefAt (iwht ((List.range 16).map fun k => coefAt y2 k * ((if k = 0 then y2dc q else y2ac q : Nat) : Int))) b
        else coefAt (y.getD b []) k * (y1ac q : Int) := by
  rw [lumaDequant, getD_map_range _ hb, byKind_dequant]
  rfl

/-- The dequantized chroma block `b` (R333). -/
theorem chromaDequant_getD (q : QIndex) {x : List (List Int)} {b : Nat} (hb : b < x.length) :
    (chromaDequant q x).getD b [] =
      (List.range 16).map fun k => coefAt (x.getD b []) k * ((if k = 0 then uvdc q else uvac q : Nat) : Int) := by
  rw [chromaDequant, getD_map_of_lt _ hb [] [], byKind_dequant]

/-- A reconstructed sample: prediction plus the inverse transform of its block, clipped (R334). -/
theorem planeAt_reconstruct {n : Nat} (pred : Plane) {coefs : List (List Int)} (hlen : coefs.length = n * n) {i j : Nat} (hi : i < 4 * n)
    (hj : j < 4 * n) :
    ((planeAt (reconstruct n pred coefs) i j).toNat : Int) =
      max 0 (min 255 ((planeAt pred i j).toNat + coefAt (idct (coefs.getD (n * (i / 4) + j / 4) [])) (4 * (i % 4) + j % 4))) := by
  have hblock : n * (i / 4) + j / 4 < coefs.length := by
    calc n * (i / 4) + j / 4 < n * (i / 4) + n := by omega
      _ = n * (i / 4 + 1) := (Nat.mul_succ _ _).symm
      _ ≤ n * n := Nat.mul_le_mul_left n (by omega)
      _ = coefs.length := hlen.symm
  rw [reconstruct, planeAt_planeOf _ hi hj, clip255_toInt, getD_map_of_lt _ hblock [] []]
  rfl

/-! Replacing a block of a plane (R258). -/

theorem setBlock_sized {p : Plane} {h w : Nat} (hp : Sized p h w) (sz r c : Nat) (blk : Plane) : Sized (setBlock p sz r c blk) h w := by
  obtain ⟨hrows, hcols⟩ := hp
  refine ⟨by rw [setBlock, List.length_mapIdx, hrows], fun row hrow => ?_⟩
  obtain ⟨y, hy, rfl⟩ := List.mem_mapIdx.mp hrow
  have hlen : p[y].length = w := hcols _ (List.getElem_mem hy)
  split
  · rw [List.length_mapIdx, hlen]
  · exact hlen

/-- Inside the block, the plane has the block's samples. -/
theorem planeAt_setBlock_inside {p : Plane} {h w : Nat} (hp : Sized p h w) {sz r c i j : Nat} (blk : Plane) (hi : i < sz) (hj : j < sz)
    (hy : sz * r + i < h) (hx : sz * c + j < w) : planeAt (setBlock p sz r c blk) (sz * r + i) (sz * c + j) = planeAt blk i j := by
  obtain ⟨hrows, hcols⟩ := hp
  have hyp : sz * r + i < p.length := hrows ▸ hy
  have hxp : sz * c + j < p[sz * r + i].length := (hcols _ (List.getElem_mem hyp)).symm ▸ hx
  simp [planeAt, setBlock, hyp, hxp, hi, hj]

/-- Outside the block, the plane keeps its samples. -/
theorem planeAt_setBlock_outside (p : Plane) {sz r c y x : Nat} (blk : Plane) (hout : ¬(y / sz = r ∧ x / sz = c)) :
    planeAt (setBlock p sz r c blk) y x = planeAt p y x := by
  have hin : ∀ z m, sz * m ≤ z ∧ z < sz * m + sz → z / sz = m := fun z m hz =>
    Nat.div_eq_of_lt_le (by rw [Nat.mul_comm]; exact hz.1) (by rw [Nat.mul_comm, Nat.mul_succ]; exact hz.2)
  by_cases hy : sz * r ≤ y ∧ y < sz * r + sz
  · have hx : ¬(sz * c ≤ x ∧ x < sz * c + sz) := fun hx => hout ⟨hin y r hy, hin x c hx⟩
    cases hrow : p[y]? <;> simp [planeAt, setBlock, hrow, hy, hx]
  · cases hrow : p[y]? <;> simp [planeAt, setBlock, hrow, hy]

/-! One macroblock (R258, R330 to R334). -/

/-- A luma sample of the analysed macroblock: prediction plus inverse transform of its dequantized block, clipped. -/
theorem planeAt_setBlock_luma {p : Plane} {mbh mbw r c i j : Nat} (hp : Sized p (16 * mbh) (16 * mbw)) (hr : r < mbh) (hc : c < mbw) (q : QIndex)
    (pred : Plane) (y2 : List Int) (y : List (List Int)) (hi : i < 16) (hj : j < 16) :
    ((planeAt (setBlock p 16 r c (reconstruct 4 pred (lumaDequant q y2 y))) (16 * r + i) (16 * c + j)).toNat : Int) =
      max 0 (min 255 ((planeAt pred i j).toNat +
        coefAt (idct ((List.range 16).map fun k =>
          if k = 0 then
            coefAt (iwht ((List.range 16).map fun k => coefAt y2 k * ((if k = 0 then y2dc q else y2ac q : Nat) : Int))) (4 * (i / 4) + j / 4)
          else coefAt (y.getD (4 * (i / 4) + j / 4) []) k * (y1ac q : Int))) (4 * (i % 4) + j % 4))) := by
  rw [planeAt_setBlock_inside hp _ hi hj (by omega) (by omega), planeAt_reconstruct _ (by simp [lumaDequant]) hi hj,
    lumaDequant_getD _ _ _ (by omega)]

/-- A chroma sample of the analysed macroblock: prediction plus inverse transform of its dequantized block, clipped. -/
theorem planeAt_setBlock_chroma {p : Plane} {mbh mbw r c i j : Nat} (hp : Sized p (8 * mbh) (8 * mbw)) (hr : r < mbh) (hc : c < mbw)
    (q : QIndex) (pred : Plane) {x : List (List Int)} (hx : x.length = 4) (hi : i < 8) (hj : j < 8) :
    ((planeAt (setBlock p 8 r c (reconstruct 2 pred (chromaDequant q x))) (8 * r + i) (8 * c + j)).toNat : Int) =
      max 0 (min 255 ((planeAt pred i j).toNat +
        coefAt (idct ((List.range 16).map fun k =>
          coefAt (x.getD (2 * (i / 4) + j / 4) []) k * ((if k = 0 then uvdc q else uvac q : Nat) : Int))) (4 * (i % 4) + j % 4))) := by
  rw [planeAt_setBlock_inside hp _ hi hj (by omega) (by omega), planeAt_reconstruct _ (by simpa [chromaDequant] using hx) hi hj,
    chromaDequant_getD _ (by omega)]

/-! The pass (R192, R250). -/

/-- The analysis of a list of macroblocks is a fold over it that hands on the planes and appends the records. -/
theorem foldl_analyseMb (method : Nat) (q : QIndex) (src : SourcePlanes) (ps : List (Nat × Nat)) (rec : Recon) (done : List MbRecord) :
    ps.foldl (fun acc p => ((analyseMb method q src acc.1 p.1 p.2).1, acc.2 ++ [(analyseMb method q src acc.1 p.1 p.2).2])) (rec, done) =
      ((analyseFrom method q src ps rec).1, done ++ (analyseFrom method q src ps rec).2) := by
  induction ps generalizing rec done with
  | nil => rw [List.foldl_nil, analyseFrom, List.append_nil]
  | cons p ps ih => rw [List.foldl_cons, ih, analyseFrom, List.append_assoc, List.singleton_append]

/-- A pass starts from planes of the padded size (R61, R63). -/
theorem Recon.start_sized (cfg : EncConfig) :
    Sized (Recon.start cfg).y (16 * cfg.mbh) (16 * cfg.mbw) ∧ Sized (Recon.start cfg).u (8 * cfg.mbh) (8 * cfg.mbw) ∧
      Sized (Recon.start cfg).v (8 * cfg.mbh) (8 * cfg.mbw) := by
  have hh : cfg.ph / 2 = 8 * cfg.mbh := by rw [EncConfig.ph]; omega
  have hw : cfg.pw / 2 = 8 * cfg.mbw := by rw [EncConfig.pw]; omega
  exact ⟨planeOf_sized _ _ _, hh ▸ hw ▸ planeOf_sized _ _ _, hh ▸ hw ▸ planeOf_sized _ _ _⟩

/-- Settles O46: the levels and the new samples are those of the macroblock's blocks, entry by entry; the rest of the planes stays; and a pass
is the fold of this over the macroblocks in raster order. -/
theorem analysisWritesOneMacroblock : Obligations.AnalysisWritesOneMacroblock := by
  refine ⟨?_, ?_⟩
  · intro method q src rec mbw mbh r c hr hc hy hu hv out m predY predU predV diff y2d yd xd res
    have hlenU : m.u.length = 4 := chromaLevels_length _ _ _
    have hlenV : m.v.length = 4 := chromaLevels_length _ _ _
    have hblocks : ∀ lv ∈ m.y ++ m.u ++ m.v, lv.length = 16 := by
      simp only [List.forall_mem_append]
      exact ⟨⟨fun _ => length_of_mem_map_byKind, fun _ => length_of_mem_map_byKind⟩, fun _ => length_of_mem_map_byKind⟩
    refine ⟨⟨rfl, rfl, rfl⟩, ⟨lumaLevels_length _ _ _, y2Levels_length _ _, hlenU, hlenV, hblocks⟩, ?levelsY, ?levelsY2, ?levelsUV,
      setBlock_sized hy _ _ _ _, setBlock_sized hu _ _ _ _, setBlock_sized hv _ _ _ _, ?insideY, ?insideU, ?insideV, ?outsideY, ?outsideUV⟩
    case levelsY => exact fun b hb k hk => coefAt_lumaLevels q _ _ r c hb hk
    case levelsY2 => exact fun k hk => coefAt_y2Levels q _ _ r c hk
    case levelsUV => exact fun b hb k hk => ⟨coefAt_chromaLevels q _ _ r c hb hk, coefAt_chromaLevels q _ _ r c hb hk⟩
    case insideY => exact fun i hi j hj => planeAt_setBlock_luma hy hr hc q _ _ _ hi hj
    case insideU => exact fun i hi j hj => planeAt_setBlock_chroma hu hr hc q _ hlenU hi hj
    case insideV => exact fun i hi j hj => planeAt_setBlock_chroma hv hr hc q _ hlenV hi hj
    case outsideY => exact fun y x hout => planeAt_setBlock_outside _ _ hout
    case outsideUV => exact fun y x hout => ⟨planeAt_setBlock_outside _ _ hout, planeAt_setBlock_outside _ _ hout⟩
  · intro ses mbw mbh order start frame coded
    have hframe : frame = analyseFrame ses.cfg ses.q ses.source := foldl_analyseMb ses.cfg.method ses.q ses.source order start []
    refine ⟨Recon.start_sized ses.cfg, ?_⟩
    simp only [coded, hframe]
    rfl

end Sys2Proof.Machine
end

section
/-! The 4x4 transforms (43_transform_quant.md sections 2 and 3): each entry by its two passes, and the ranges of the forward ones (R336). -/

namespace Sys2Proof.Machine

/-! A pass over the rows or the columns of a block. -/

/-- An entry of lists of one length joined. -/
theorem getD_flatMap_range {α : Type} (g : Nat → List α) {n : Nat} (hg : ∀ i, (g i).length = n) {m i j : Nat} (hi : i < m) (hj : j < n)
    (d : α) : ((List.range m).flatMap g).getD (n * i + j) d = (g i).getD j d := by
  induction m with
  | zero => omega
  | succ m ih =>
    have hlen : ((List.range m).flatMap g).length = n * m := by simp [List.length_flatMap, hg, Nat.mul_comm]
    rw [List.range_succ, List.flatMap_append, List.flatMap_singleton]
    rcases Nat.lt_succ_iff_lt_or_eq.mp hi with hlt | rfl
    · have hle : n * (i + 1) ≤ n * m := Nat.mul_le_mul_left n hlt
      rw [List.getD_append _ _ _ _ (by rw [hlen]; rw [Nat.mul_succ] at hle; omega), ih hlt]
    · rw [List.getD_append_right _ _ _ _ (by omega), hlen, Nat.add_sub_cancel_left]

/-- An entry of a pass over the rows, from the entries of its row. -/
theorem coefAt_onRows {f : Int → Int → Int → Int → List Int} (hf : ∀ a b c d, (f a b c d).length = 4) {x : List Int} {i : Nat} (hi : i < 4)
    {t : Nat → Int} (ht : ∀ c < 4, coefAt x (4 * i + c) = t c) {j : Nat} (hj : j < 4) :
    coefAt (onRows f x) (4 * i + j) = coefAt (f (t 0) (t 1) (t 2) (t 3)) j := by
  rw [coefAt, onRows, getD_flatMap_range _ (fun _ => hf _ _ _ _) hi hj, ← ht 0 (by decide), ← ht 1 (by decide), ← ht 2 (by decide),
    ← ht 3 (by decide)]
  rfl

/-- An entry of a pass over the columns, from the entries of its column. -/
theorem coefAt_onCols (f : Int → Int → Int → Int → List Int) {x : List Int} {i : Nat} (hi : i < 4) {t : Nat → Int}
    (ht : ∀ r < 4, coefAt x (4 * r + i) = t r) {j : Nat} (hj : j < 4) :
    coefAt (onCols f x) (4 * j + i) = coefAt (f (t 0) (t 1) (t 2) (t 3)) j := by
  rw [coefAt, onCols, getD_map_range _ (by omega), getD_map_range _ (by omega), show (4 * j + i) % 4 = i by omega,
    show (4 * j + i) / 4 = j by omega, ← ht 0 (by decide), ← ht 1 (by decide), ← ht 2 (by decide), ← ht 3 (by decide), Nat.mul_zero,
    Nat.zero_add]

/-- Column `i` of a transform of rows, then columns: the second pass on what the first leaves at place `i` of each row. -/
theorem column_of_rows_then_cols {f : Int → Int → Int → Int → List Int} (hf : ∀ a b c d, (f a b c d).length = 4)
    (g : Int → Int → Int → Int → List Int) (x : List Int) {i : Nat} (hi : i < 4) {t : Nat → Int}
    (ht : ∀ r < 4, coefAt (f (coefAt x (4 * r + 0)) (coefAt x (4 * r + 1)) (coefAt x (4 * r + 2)) (coefAt x (4 * r + 3))) i = t r) :
    let y := onCols g (onRows f x)
    let col := g (t 0) (t 1) (t 2) (t 3)
    coefAt y i = coefAt col 0 ∧ coefAt y (4 + i) = coefAt col 1 ∧ coefAt y (8 + i) = coefAt col 2 ∧ coefAt y (12 + i) = coefAt col 3 := by
  have hrow : ∀ r < 4, coefAt (onRows f x) (4 * r + i) = t r := fun r hr => (coefAt_onRows hf hr (fun _ _ => rfl) hi).trans (ht r hr)
  have hcol : ∀ j < 4, _ := fun j hj => coefAt_onCols g hi hrow hj
  exact ⟨Nat.zero_add i ▸ hcol 0 (by decide), hcol 1 (by decide), hcol 2 (by decide), hcol 3 (by decide)⟩

/-- Row `j` of a transform of columns, then rows: the second pass on what the first leaves at place `j` of each column. -/
theorem row_of_cols_then_rows {g : Int → Int → Int → Int → List Int} (hg : ∀ a b c d, (g a b c d).length = 4)
    (f : Int → Int → Int → Int → List Int) (x : List Int) {j : Nat} (hj : j < 4) {u : Nat → Int}
    (hu : ∀ i < 4, coefAt (f (coefAt x (4 * 0 + i)) (coefAt x (4 * 1 + i)) (coefAt x (4 * 2 + i)) (coefAt x (4 * 3 + i))) j = u i) :
    let y := onRows g (onCols f x)
    let row := g (u 0) (u 1) (u 2) (u 3)
    coefAt y (4 * j) = coefAt row 0 ∧ coefAt y (4 * j + 1) = coefAt row 1 ∧ coefAt y (4 * j + 2) = coefAt row 2 ∧
      coefAt y (4 * j + 3) = coefAt row 3 := by
  have hcol : ∀ i < 4, coefAt (onCols f x) (4 * j + i) = u i := fun i hi =>
    (coefAt_onCols f hi (t := fun r => coefAt x (4 * r + i)) (fun _ _ => rfl) hj).trans (hu i hi)
  have hrow : ∀ i < 4, _ := fun i hi => coefAt_onRows hg hj hcol hi
  exact ⟨hrow 0 (by decide), hrow 1 (by decide), hrow 2 (by decide), hrow 3 (by decide)⟩

/-! Ranges. -/

/-- A pass takes entries of magnitude at most `m` to entries of magnitude at most `n`. -/
def TakesWithin (f : Int → Int → Int → Int → List Int) (m n : Nat) : Prop :=
  ∀ a b c d : Int, a.natAbs ≤ m → b.natAbs ≤ m → c.natAbs ≤ m → d.natAbs ≤ m → ∀ v ∈ f a b c d, v.natAbs ≤ n

/-- An entry of a list is one of its members, or 0 outside it. -/
theorem coefAt_natAbs_le {c : List Int} {n : Nat} (h : ∀ v ∈ c, v.natAbs ≤ n) (k : Nat) : (coefAt c k).natAbs ≤ n := by
  rw [coefAt]
  by_cases hk : k < c.length
  · rw [List.getD_eq_getElem _ _ hk]
    exact h _ (List.getElem_mem hk)
  · rw [List.getD_eq_default _ _ (by omega)]
    exact Nat.zero_le n

theorem TakesWithin.onRows {f : Int → Int → Int → Int → List Int} {m n : Nat} (hf : TakesWithin f m n) {x : List Int}
    (hx : ∀ i < 16, (coefAt x i).natAbs ≤ m) (k : Nat) : (coefAt (onRows f x) k).natAbs ≤ n := by
  refine coefAt_natAbs_le (fun v hv => ?_) k
  obtain ⟨i, hi, hv⟩ := List.mem_flatMap.mp hv
  have hi4 : i < 4 := List.mem_range.mp hi
  exact hf _ _ _ _ (hx _ (by omega)) (hx _ (by omega)) (hx _ (by omega)) (hx _ (by omega)) v hv

theorem TakesWithin.onCols {f : Int → Int → Int → Int → List Int} {m n : Nat} (hf : TakesWithin f m n) {x : List Int}
    (hx : ∀ i < 16, (coefAt x i).natAbs ≤ m) (k : Nat) : (coefAt (onCols f x) k).natAbs ≤ n := by
  refine coefAt_natAbs_le (fun v hv => ?_) k
  obtain ⟨k', hk', rfl⟩ := List.mem_map.mp hv
  have hcol : k' % 4 < 4 := Nat.mod_lt _ (by decide)
  rw [getD_map_range _ hcol]
  exact coefAt_natAbs_le (hf _ _ _ _ (hx _ (by omega)) (hx _ (by omega)) (hx _ (by omega)) (hx _ (by omega))) _

/-- The first pass of the forward DCT scales by 8 a sum of four residuals. -/
theorem fdctRow_takesWithin : TakesWithin fdctRow 255 8160 := by
  intro a b c d ha hb hc hd
  simp only [fdctRow, sar, List.forall_mem_cons, List.not_mem_nil, false_implies, implies_true, and_true]
  refine ⟨?_, ?_, ?_, ?_⟩ <;> omega

theorem fdctCol_takesWithin : TakesWithin fdctCol 8160 2040 := by
  intro a b c d ha hb hc hd
  simp only [fdctCol, sar, List.forall_mem_cons, List.not_mem_nil, false_implies, implies_true, and_true]
  refine ⟨?_, ?_, ?_, ?_⟩
  · omega
  · split <;> omega
  · omega
  · omega

theorem fwhtRow_takesWithin {m : Nat} : TakesWithin fwhtRow m (4 * m) := by
  intro a b c d ha hb hc hd
  simp only [fwhtRow, List.forall_mem_cons, List.not_mem_nil, false_implies, implies_true, and_true]
  refine ⟨?_, ?_, ?_, ?_⟩ <;> omega

/-- The second pass of the forward WHT is the first, halved. -/
theorem fwhtCol_takesWithin {m : Nat} : TakesWithin fwhtCol m (2 * m) := by
  intro a b c d ha hb hc hd v hv
  obtain ⟨w, hw, rfl⟩ := List.mem_map.mp hv
  have hrow := fwhtRow_takesWithin a b c d ha hb hc hd w hw
  rw [sar]
  omega

/-- The range of the forward DCT (R336). -/
theorem fdct_natAbs_le {d : List Int} (hd : ∀ i < 16, (coefAt d i).natAbs ≤ 255) (k : Nat) : (coefAt (fdct d) k).natAbs ≤ 2040 :=
  fdctCol_takesWithin.onCols (fun i _ => fdctRow_takesWithin.onRows hd i) k

/-- The range of the forward WHT (R336). -/
theorem fwht_natAbs_le {e : List Int} (he : ∀ i < 16, (coefAt e i).natAbs ≤ 2040) (k : Nat) : (coefAt (fwht e) k).natAbs ≤ 16320 :=
  fwhtCol_takesWithin.onCols (fun i _ => fwhtRow_takesWithin.onRows he i) k

/-- Settles O41: each column is the second pass on what the first leaves of each row, and each pass keeps its range. -/
theorem forwardTransformRanges : Obligations.ForwardTransformRanges := by
  refine ⟨?_, ?_, ?_, fun e he k _ => fwht_natAbs_le he k⟩
  · intro d x t0 t1 t2 t3 col hcol
    obtain ⟨hi, ht⟩ : col.1 < 4 ∧ ∀ r < 4, coefAt (fdctRow (x r 0) (x r 1) (x r 2) (x r 3)) col.1 = col.2 r := by
      fin_cases hcol <;> exact ⟨by simp, fun _ _ => rfl⟩
    exact column_of_rows_then_cols (fun _ _ _ _ => rfl) fdctCol d hi ht
  · intro e x t0 t1 t2 t3 col hcol
    obtain ⟨hi, ht⟩ : col.1 < 4 ∧ ∀ r < 4, coefAt (fwhtRow (x r 0) (x r 1) (x r 2) (x r 3)) col.1 = col.2 r := by
      fin_cases hcol <;> exact ⟨by simp, fun _ _ => rfl⟩
    exact column_of_rows_then_cols (fun _ _ _ _ => rfl) fwhtCol e hi ht
  · intro d hd k _
    exact fdct_natAbs_le (fun i hi => by have := hd i hi; omega) k

/-! The inverse transforms (R295, R296). -/

/-- A block of one coefficient leaves the vertical pass of the inverse DCT with each row holding it at place 0 alone. -/
theorem onCols_idctLine_dc (v : Int) : onCols idctLine (v :: List.replicate 15 0) = (List.range 4).flatMap fun _ => [v, 0, 0, 0] := by
  simp [onCols, idctLine, coefAt, mulC1, mulC2, sar, List.range_succ]

theorem onCols_iwhtLine_dc (v : Int) : onCols iwhtLine (v :: List.replicate 15 0) = (List.range 4).flatMap fun _ => [v, 0, 0, 0] := by
  simp [onCols, iwhtLine, coefAt, List.range_succ]

/-- A block of one coefficient inverts to one value. -/
theorem idct_dc (v : Int) : idct (v :: List.replicate 15 0) = List.replicate 16 ((v + 4) / 8) := by
  rw [idct, onCols_idctLine_dc]
  simp [onRows, idctRow, idctLine, coefAt, mulC1, mulC2, sar, List.range_succ]

theorem iwht_dc (v : Int) : iwht (v :: List.replicate 15 0) = List.replicate 16 ((v + 3) / 8) := by
  rw [iwht, onCols_iwhtLine_dc]
  simp [onRows, iwhtRow, iwhtLine, coefAt, sar, List.range_succ]

/-- Settles O44: each row is the second pass on what the first leaves of each column, and on a block of one coefficient every pass copies it. -/
theorem inverseOfDcOnly : Obligations.InverseOfDcOnly := by
  refine ⟨?_, ?_, ?_⟩
  · intro x m1 m2 c1 d1 y t0 t1 t2 t3 row hrow
    obtain ⟨hj, hu⟩ : row.1 < 4 ∧ ∀ i < 4, coefAt (idctLine (y 0 i) (y 1 i) (y 2 i) (y 3 i)) row.1 = row.2 i := by
      fin_cases hrow <;> exact ⟨by simp, fun _ _ => rfl⟩
    exact row_of_cols_then_rows (fun _ _ _ _ => rfl) idctLine x hj hu
  · intro x y t0 t1 t2 t3 row hrow
    obtain ⟨hj, hu⟩ : row.1 < 4 ∧ ∀ i < 4, coefAt (iwhtLine (y 0 i) (y 1 i) (y 2 i) (y 3 i)) row.1 = row.2 i := by
      fin_cases hrow <;> exact ⟨by simp, fun _ _ => rfl⟩
    exact row_of_cols_then_rows (fun _ _ _ _ => rfl) iwhtLine x hj hu
  · intro v k hk
    rw [idct_dc, iwht_dc, coefAt, coefAt, List.getD_replicate _ hk, List.getD_replicate _ hk]
    exact ⟨rfl, rfl⟩

end Sys2Proof.Machine
end

section
/-! The quantizer (43_transform_quant.md sections 5 and 7): its steps, its rounding, and the range of the levels. -/

namespace Sys2Proof.Machine

/-! The steps (R320, R321). -/

/-- The index stays inside the table, so the lookup's default is never read. -/
theorem dcStep_eq (q : QIndex) (d : Nat) : dcStep q = dcTable.getD q.val d := by
  have hq : q.val < dcTable.length := q.isLt
  rw [dcStep, List.getD_eq_getElem _ _ hq, List.getD_eq_getElem _ _ hq]

theorem acStep_eq (q : QIndex) (d : Nat) : acStep q = acTable.getD q.val d := by
  have hq : q.val < acTable.length := q.isLt
  rw [acStep, List.getD_eq_getElem _ _ hq, List.getD_eq_getElem _ _ hq]

theorem four_le_dcStep : ∀ q : QIndex, 4 ≤ dcStep q := by decide

theorem dcStep_le_acStep : ∀ q : QIndex, dcStep q ≤ acStep q := by decide

/-- A list of neighbours in order is monotone in its index. -/
theorem getD_mono_of_isChain {l : List Nat} (hl : l.IsChain (· ≤ ·)) {i j : Nat} (hij : i ≤ j) (hj : j < l.length) (d : Nat) :
    l.getD i d ≤ l.getD j d := by
  rw [List.getD_eq_getElem _ _ (by omega), List.getD_eq_getElem _ _ hj]
  rcases Nat.eq_or_lt_of_le hij with rfl | hlt
  · exact Nat.le_refl _
  · exact List.pairwise_iff_getElem.mp (List.isChain_iff_pairwise.mp hl) i j _ _ hlt

/-- The tables are non-decreasing (R320). -/
theorem dcTable_isChain : dcTable.IsChain (· ≤ ·) := by decide +kernel

theorem acTable_isChain : acTable.IsChain (· ≤ ·) := by decide +kernel

theorem dcStep_mono {q q' : QIndex} (h : q ≤ q') : dcStep q ≤ dcStep q' := getD_mono_of_isChain dcTable_isChain h q'.isLt 4

theorem acStep_mono {q q' : QIndex} (h : q ≤ q') : acStep q ≤ acStep q' := getD_mono_of_isChain acTable_isChain h q'.isLt 4

/-- Settles O45: the tables are chains, and each step is a monotone function of its table's entry. -/
theorem stepsAreMonotone : Obligations.StepsAreMonotone := by
  unfold Obligations.StepsAreMonotone
  intro dc ac
  have hdc : ∀ q : QIndex, dc.getD q.val 0 = dcStep q := fun q => (dcStep_eq q 0).symm
  have hac : ∀ q : QIndex, ac.getD q.val 0 = acStep q := fun q => (acStep_eq q 0).symm
  simp only [hdc, hac]
  refine ⟨fun q => ⟨rfl, rfl, rfl, rfl, rfl, dcStep_le_acStep q⟩, fun q q' h => ?_⟩
  have hd := dcStep_mono h
  have ha := acStep_mono h
  refine ⟨hd, ha, ha, ?_, ?_, ?_, ha⟩
  · exact Nat.mul_le_mul_left 2 hd
  · exact max_le_max_left 8 (Nat.div_le_div_right (Nat.mul_le_mul_right 155 ha))
  · exact min_le_min_left 132 hd

theorem y1ac_pos (q : QIndex) : 0 < y1ac q := Nat.lt_of_lt_of_le (by decide) ((four_le_dcStep q).trans (dcStep_le_acStep q))

/-- The Y2 steps are doubled or kept from falling below 8 (R321). -/
theorem eight_le_y2Step {q : QIndex} {s : Nat} (hs : s = y2dc q ∨ s = y2ac q) : 8 ≤ s := by
  obtain rfl | rfl := hs
  · exact Nat.mul_le_mul_left 2 (four_le_dcStep q)
  · exact le_max_left _ _

theorem uvStep_pos {q : QIndex} {s : Nat} (hs : s = uvdc q ∨ s = uvac q) : 0 < s := by
  obtain rfl | rfl := hs
  · exact lt_min (by decide) (Nat.lt_of_lt_of_le (by decide) (four_le_dcStep q))
  · exact y1ac_pos q

/-! Rounding (R322). -/

/-- The quotient of R322, before the cap: the magnitude in steps, rounded. -/
def roundedSteps (n s : Nat) : Nat := (n + s / 2) / s

theorem quant_eq (x : Int) (s : Nat) : quant x s = (if x < 0 then -1 else 1) * ((min 2047 (roundedSteps x.natAbs s) : Nat) : Int) := by
  rw [quant, Nat.shiftRight_one]
  rfl

theorem quant_natAbs (x : Int) (s : Nat) : (quant x s).natAbs = min 2047 (roundedSteps x.natAbs s) := by
  rw [quant_eq]
  split <;> omega

/-- The rounded multiple of the step lies within half a step below and less than half a step above the magnitude. -/
theorem roundedSteps_mul (n : Nat) {s : Nat} (hs : 0 < s) :
    roundedSteps n s * s ≤ n + s / 2 ∧ n + s / 2 < roundedSteps n s * s + s := by
  have hdiv := Nat.div_add_mod (n + s / 2) s
  have hmod := Nat.mod_lt (n + s / 2) hs
  rw [Nat.mul_comm] at hdiv
  rw [roundedSteps]
  omega

/-- Settles O43: the rule's formula is the definition, and what rounding leaves of a magnitude it leaves of the number. -/
theorem quantRoundsToNearest : Obligations.QuantRoundsToNearest := by
  refine ⟨fun x s _ => quant_eq x s, fun x s hs hcap => ?_, fun s hs => ?_⟩
  · obtain ⟨hle, hlt⟩ := roundedSteps_mul x.natAbs (s := s) (by omega)
    have hlevel : (quant x s).natAbs = roundedSteps x.natAbs s := (quant_natAbs x s).trans (min_eq_right hcap)
    have hq : quant x s * s = (if x < 0 then -1 else 1) * ((roundedSteps x.natAbs s * s : Nat) : Int) := by
      rw [quant_eq, min_eq_right (show roundedSteps x.natAbs s ≤ 2047 from hcap), mul_assoc, Nat.cast_mul]
    rw [hq, hlevel]
    split <;> omega
  · have hzero : roundedSteps 0 s = 0 := Nat.div_eq_of_lt (by omega)
    rw [quant_eq, Int.natAbs_zero, hzero]
    rfl

/-! The range of the levels (R336). -/

/-- A magnitude of at most 2040 steps rounds to at most 2040. -/
theorem roundedSteps_le {n s : Nat} (hs : 0 < s) (hn : n ≤ 2040 * s) : roundedSteps n s ≤ 2040 := by
  rw [roundedSteps, ← Nat.lt_succ_iff, Nat.div_lt_iff_lt_mul hs]
  omega

theorem quant_natAbs_le {x : Int} {s : Nat} (hs : 0 < s) (hx : x.natAbs ≤ 2040 * s) : (quant x s).natAbs ≤ 2040 :=
  quant_natAbs x s ▸ (min_le_right _ _).trans (roundedSteps_le hs hx)

/-- A difference of two samples (R292). -/
theorem residual_natAbs_le (src pred : Plane) (br bc : Nat) {k : Nat} (hk : k < 16) : (coefAt (residual src pred br bc) k).natAbs ≤ 255 := by
  rw [coefAt, residual, getD_map_range _ hk, sampleInt, sampleInt]
  omega

/-- The forward DCTs of a block of samples (R336). -/
theorem forwardBlocks_natAbs_le (n : Nat) (src pred : Plane) {b : Nat} (hb : b < n * n) (k : Nat) :
    (coefAt ((forwardBlocks n src pred).getD b []) k).natAbs ≤ 2040 := by
  rw [forwardBlocks, getD_map_range _ hb]
  exact fdct_natAbs_le (fun _ hi => residual_natAbs_le src pred _ _ hi) k

/-- The Y2 coefficients of a macroblock (R336). -/
theorem fwht_dcs_natAbs_le (src pred : Plane) (k : Nat) :
    (coefAt (fwht ((forwardBlocks 4 src pred).map fun c => coefAt c 0)) k).natAbs ≤ 16320 := by
  refine fwht_natAbs_le (fun b hb => ?_) k
  have hlen : b < (forwardBlocks 4 src pred).length := by simpa [forwardBlocks] using hb
  rw [coefAt, getD_map_of_lt _ hlen 0 []]
  exact forwardBlocks_natAbs_le 4 src pred hb 0

/-- Settles O42: the coefficients' ranges, divided by the smallest steps, 8 for Y2 and 1 for the others. -/
theorem levelsAreNeverCapped : Obligations.LevelsAreNeverCapped := by
  intro q src pred srcC predC coefs chroma
  have hluma : ∀ b < 16, ∀ k, (coefAt (coefs.getD b []) k).natAbs ≤ 2040 * y1ac q := fun b hb k =>
    (forwardBlocks_natAbs_le 4 src pred hb k).trans (Nat.le_mul_of_pos_right _ (y1ac_pos q))
  have hy2 : ∀ s, s = y2dc q ∨ s = y2ac q → ∀ k, (coefAt (fwht (coefs.map fun c => coefAt c 0)) k).natAbs ≤ 2040 * s := fun s hs k =>
    (fwht_dcs_natAbs_le src pred k).trans (Nat.mul_le_mul_left 2040 (eight_le_y2Step hs))
  have hchroma : ∀ s, s = uvdc q ∨ s = uvac q → ∀ b < 4, ∀ k, (coefAt (chroma.getD b []) k).natAbs ≤ 2040 * s := fun s hs b hb k =>
    (forwardBlocks_natAbs_le 2 srcC predC hb k).trans (Nat.le_mul_of_pos_right _ (uvStep_pos hs))
  refine ⟨fun b hb k hk => ?lumaLevel, fun k hk => ?y2Level, fun b hb k hk => ?chromaLevel, fun b hb k _ => ?luma, fun s hs k _ => ?y2,
    fun s hs b hb k _ => ?chroma⟩
  case lumaLevel =>
    have hlen : b < coefs.length := by simpa [coefs, forwardBlocks] using hb
    rw [lumaLevels, getD_map_of_lt _ hlen [] [], coefAt_byKind _ _ _ hk]
    split
    · exact Nat.zero_le _
    · exact quant_natAbs_le (y1ac_pos q) (hluma b hb k)
  case y2Level =>
    have hs := ite_eq_or_eq (k = 0) (y2dc q) (y2ac q)
    rw [y2Levels, coefAt_byKind_quant _ _ _ hk]
    exact quant_natAbs_le (Nat.lt_of_lt_of_le (by decide) (eight_le_y2Step hs)) (hy2 _ hs k)
  case chromaLevel =>
    have hlen : b < chroma.length := by simpa [chroma, forwardBlocks] using hb
    have hs := ite_eq_or_eq (k = 0) (uvdc q) (uvac q)
    rw [chromaLevels, getD_map_of_lt _ hlen [] [], coefAt_byKind_quant _ _ _ hk]
    exact quant_natAbs_le (uvStep_pos hs) (hchroma _ hs b hb k)
  case luma => exact Nat.lt_of_le_of_lt (roundedSteps_le (y1ac_pos q) (hluma b hb k)) (by decide)
  case y2 => exact Nat.lt_of_le_of_lt (roundedSteps_le (Nat.lt_of_lt_of_le (by decide) (eight_le_y2Step hs)) (hy2 s hs k)) (by decide)
  case chroma => exact Nat.lt_of_le_of_lt (roundedSteps_le (uvStep_pos hs) (hchroma s hs b hb k)) (by decide)

end Sys2Proof.Machine
end

section
/-! The token walk of a frame (43_transform_quant.md R291; 44_entropy_coder.md R350, R360 to R362, R370): the flag of a block, the contexts the
blocks are walked in, and the counts. -/

namespace Sys2Proof.Machine

/-! The flag of a block (R350). -/

/-- The flag of a block: whether a level it codes is not 0. -/
def blockFlag (t : BlockType) (lv : List Int) : Bool :=
  (List.range 16).any fun i => decide (firstPosition t ≤ i) && decide (coefAt (zigzag lv) i ≠ 0)

theorem blockFlag_iff (t : BlockType) (lv : List Int) :
    blockFlag t lv = true ↔ ∃ i, firstPosition t ≤ i ∧ i < 16 ∧ coefAt (zigzag lv) i ≠ 0 := by
  simp only [blockFlag, List.any_eq_true, List.mem_range, Bool.and_eq_true, decide_eq_true_eq]
  exact exists_congr fun i => and_left_comm

/-- Nothing is coded exactly when every level from the first coded position on is 0. -/
theorem codedLevels_eq_nil_iff (lv : List Int) (first : Nat) :
    codedLevels lv first = [] ↔ ∀ i, first ≤ i → i < 16 → coefAt (zigzag lv) i = 0 := by
  have hlen : (zigzag lv).length = 16 := rfl
  rw [codedLevels, List.reverse_eq_nil_iff, List.dropWhile_eq_nil_iff]
  simp only [List.mem_reverse, beq_iff_eq, List.mem_drop_iff_getElem]
  constructor
  · intro h i hi h16
    rw [coefAt, List.getD_eq_getElem _ _ (hlen ▸ h16)]
    exact h _ ⟨i - first, by omega, by simp only [Nat.add_sub_cancel' hi]⟩
  · rintro h _ ⟨i, hi, rfl⟩
    rw [← List.getD_eq_getElem _ 0]
    exact h _ (Nat.le_add_right _ _) (by omega)

/-- The walk's nz is the flag, whatever the context (R350). -/
theorem walkBlock_snd (t : BlockType) (lv : List Int) (k : Fin 3) : (walkBlock t lv k).2 = blockFlag t lv := by
  rw [Bool.eq_iff_iff, blockFlag_iff]
  simp [walkBlock, codedLevels_eq_nil_iff]

theorem firstPosition_lt (t : BlockType) : firstPosition t < 16 := by cases t <;> decide

/-- The walk of a block with the flag 0 is one EOB at its first coded position (R350). -/
theorem walkBlock_of_flag_false {t : BlockType} {lv : List Int} {k : Fin 3} (h : (walkBlock t lv k).2 = false) :
    (walkBlock t lv k).1 = [.node t (bandAt (firstPosition t)) k 0 false] := by
  have hnil : codedLevels lv (firstPosition t) = [] := by simpa [walkBlock] using h
  rw [walkBlock, hnil, walkFrom, if_neg (firstPosition_lt t).ne]

/-! Blocks of a grid walked in raster order. -/

/-- How many blocks of column `j` stand before block `b` in the raster order of a grid of `n` columns. -/
def rowsBefore (n b j : Nat) : Nat := (b + (n - 1 - j)) / n

/-- How many blocks of row `i` stand before block `b` in the raster order of a grid of `n` columns. -/
def colsBefore (n b i : Nat) : Nat := min n (b - n * i)

theorem colsBefore_zero (n i : Nat) : colsBefore n 0 i = 0 := by rw [colsBefore, Nat.zero_sub, Nat.min_zero]

section Raster

variable {n : Nat} (hn : 0 < n) (b : Nat)
include hn

theorem rowsBefore_zero (j : Nat) : rowsBefore n 0 j = 0 := Nat.div_eq_of_lt (by omega)

theorem rowsBefore_here : rowsBefore n b (b % n) = b / n := by
  have hlt := Nat.mod_lt b hn
  have hdiv := Nat.div_add_mod b n
  rw [rowsBefore, show b + (n - 1 - b % n) = n - 1 + n * (b / n) by omega, Nat.add_mul_div_left _ _ hn, Nat.div_eq_of_lt (by omega), Nat.zero_add]

theorem rowsBefore_all {m j : Nat} (hj : j < n) : rowsBefore n (n * m) j = m := by
  rw [rowsBefore, Nat.add_comm, Nat.add_mul_div_left _ _ hn, Nat.div_eq_of_lt (by omega), Nat.zero_add]

/-- A block adds a row to its own column. -/
theorem rowsBefore_succ {j : Nat} (hj : j < n) : rowsBefore n (b + 1) j = if j = b % n then b / n + 1 else rowsBefore n b j := by
  have hlt := Nat.mod_lt b hn
  have hdiv := Nat.div_add_mod b n
  split
  next h =>
    rw [h, rowsBefore, show b + 1 + (n - 1 - b % n) = n * (b / n + 1) by rw [Nat.mul_succ]; omega, Nat.mul_div_cancel_left _ hn]
  next h =>
    rw [rowsBefore, rowsBefore, Nat.add_right_comm, Nat.succ_div_of_not_dvd]
    rw [show b + (n - 1 - j) + 1 = n * (b / n) + (b % n + n - j) by omega, Nat.dvd_add_right (Nat.dvd_mul_right _ _)]
    rcases Nat.lt_or_gt_of_ne h with hbelow | habove
    · exact Nat.not_dvd_of_lt_of_lt_mul_succ (k := 1) (by omega) (by omega)
    · exact Nat.not_dvd_of_lt_of_lt_mul_succ (k := 0) (by omega) (by omega)

theorem colsBefore_here : colsBefore n b (b / n) = b % n := by
  have hlt := Nat.mod_lt b hn
  have hdiv := Nat.div_add_mod b n
  rw [colsBefore]
  omega

theorem colsBefore_all {m i : Nat} (hi : i < m) : colsBefore n (n * m) i = n := by
  have hle : n * (i + 1) ≤ n * m := Nat.mul_le_mul_left n hi
  rw [Nat.mul_succ] at hle
  rw [colsBefore]
  omega

/-- A block adds a column to its own row. -/
theorem colsBefore_succ (i : Nat) : colsBefore n (b + 1) i = if i = b / n then b % n + 1 else colsBefore n b i := by
  have hlt := Nat.mod_lt b hn
  have hdiv := Nat.div_add_mod b n
  simp only [colsBefore]
  rcases Nat.lt_trichotomy i (b / n) with h | rfl | h
  · have hle : n * (i + 1) ≤ n * (b / n) := Nat.mul_le_mul_left n h
    rw [Nat.mul_succ] at hle
    rw [if_neg h.ne]
    omega
  · rw [if_pos rfl]
    omega
  · have hle : n * (b / n + 1) ≤ n * i := Nat.mul_le_mul_left n h
    rw [Nat.mul_succ] at hle
    rw [if_neg h.ne']
    omega

end Raster

/-! The flags of the neighbours (R360). -/

/-- The flag of the block above the block at row `br` and column `bc` of a plane with flags `f`: 0 outside the frame. -/
def flagAbove (f : Nat → Nat → Bool) (br bc : Nat) : Bool := decide (0 < br) && f (br - 1) bc

/-- The flag of the block to the left. -/
def flagLeft (f : Nat → Nat → Bool) (br bc : Nat) : Bool := decide (0 < bc) && f br (bc - 1)

/-- The context of a block of a plane. -/
def planeCtx (f : Nat → Nat → Bool) (br bc : Nat) : Fin 3 := firstCtx (flagAbove f br bc) (flagLeft f br bc)

/-- The context is the sum of the two flags. -/
theorem planeCtx_eq (f : Nat → Nat → Bool) (br bc : Nat) :
    planeCtx f br bc =
      Fin.ofNat 3 ((if 0 < br then (f (br - 1) bc).toNat else 0) + (if 0 < bc then (f br (bc - 1)).toNat else 0)) := by
  have habove : (if 0 < br then (f (br - 1) bc).toNat else 0) = (flagAbove f br bc).toNat := by
    rw [flagAbove]
    split <;> simp [*]
  have hleft : (if 0 < bc then (f br (bc - 1)).toNat else 0) = (flagLeft f br bc).toNat := by
    rw [flagLeft]
    split <;> simp [*]
  rw [habove, hleft, planeCtx]
  cases flagAbove f br bc <;> cases flagLeft f br bc <;> rfl

/-- The flags above a grid of `n` columns at (r0, c0) of a plane, before its block `b` is walked: column by column, that of the lowest block
walked so far. -/
structure AboveSeen (f : Nat → Nat → Bool) (n r0 c0 b : Nat) (above : List Bool) : Prop where
  length : above.length = n
  flag : ∀ j < n, above.getD j false = flagAbove f (r0 + rowsBefore n b j) (c0 + j)

/-- The flags to the left of a grid of `n` rows and columns at (r0, c0) of a plane, before its block `b` is walked: row by row, that of the
rightmost block walked so far. -/
structure LeftSeen (f : Nat → Nat → Bool) (n r0 c0 b : Nat) (left : List Bool) : Prop where
  length : left.length = n
  flag : ∀ i < n, left.getD i false = flagLeft f (r0 + i) (c0 + colsBefore n b i)

/-- An entry of a list after an update. -/
theorem getD_set {α : Type} (l : List α) (i j : Nat) (a d : α) (hj : j < l.length) : (l.set i a).getD j d = if j = i then a else l.getD j d := by
  rw [List.getD_eq_getElem _ _ (by simpa using hj), List.getD_eq_getElem _ _ hj, List.getElem_set]
  exact if_congr eq_comm rfl rfl

section Seen

variable {f : Nat → Nat → Bool} {n r0 c0 b : Nat} {above left : List Bool}

/-- Walking a block puts its flag where the block below it looks. -/
theorem AboveSeen.set (h : AboveSeen f n r0 c0 b above) (hn : 0 < n) :
    AboveSeen f n r0 c0 (b + 1) (above.set (b % n) (f (r0 + b / n) (c0 + b % n))) := by
  refine ⟨by rw [List.length_set, h.length], fun j hj => ?_⟩
  rw [getD_set _ _ _ _ _ (h.length ▸ hj), rowsBefore_succ hn b hj]
  split
  next hjb => simp [flagAbove, hjb, ← Nat.add_assoc]
  next => exact h.flag j hj

/-- Walking a block puts its flag where the block to its right looks. -/
theorem LeftSeen.set (h : LeftSeen f n r0 c0 b left) (hn : 0 < n) :
    LeftSeen f n r0 c0 (b + 1) (left.set (b / n) (f (r0 + b / n) (c0 + b % n))) := by
  refine ⟨by rw [List.length_set, h.length], fun i hi => ?_⟩
  rw [getD_set _ _ _ _ _ (h.length ▸ hi), colsBefore_succ hn b i]
  split
  next hib => simp [flagLeft, hib, ← Nat.add_assoc]
  next => exact h.flag i hi

/-- The flag above the next block is that of its neighbour. -/
theorem AboveSeen.here (h : AboveSeen f n r0 c0 b above) (hn : 0 < n) : above.getD (b % n) false = flagAbove f (r0 + b / n) (c0 + b % n) := by
  rw [h.flag _ (Nat.mod_lt b hn), rowsBefore_here hn b]

/-- The flag to the left of the next block is that of its neighbour. -/
theorem LeftSeen.here (h : LeftSeen f n r0 c0 b left) (hn : 0 < n) (hb : b < n * n) :
    left.getD (b / n) false = flagLeft f (r0 + b / n) (c0 + b % n) := by
  rw [h.flag _ (Nat.div_lt_of_lt_mul hb), colsBefore_here hn b]

/-- The last row of a grid is what the grid below it sees. -/
theorem AboveSeen.below (h : AboveSeen f n r0 c0 (n * n) above) (hn : 0 < n) : AboveSeen f n (r0 + n) c0 0 above :=
  ⟨h.length, fun j hj => by rw [h.flag j hj, rowsBefore_all hn hj, rowsBefore_zero hn, Nat.add_zero]⟩

/-- The last column of a grid is what the grid to its right sees. -/
theorem LeftSeen.right (h : LeftSeen f n r0 c0 (n * n) left) (hn : 0 < n) : LeftSeen f n r0 (c0 + n) 0 left :=
  ⟨h.length, fun i hi => by rw [h.flag i hi, colsBefore_all hn hi, colsBefore_zero, Nat.add_zero]⟩

/-- No block stands above the first row of a frame. -/
theorem AboveSeen.top (f : Nat → Nat → Bool) {n : Nat} (hn : 0 < n) (c0 : Nat) : AboveSeen f n 0 c0 0 (List.replicate n false) :=
  ⟨List.length_replicate, fun j hj => by rw [List.getD_replicate _ hj, rowsBefore_zero hn]; rfl⟩

/-- No block stands to the left of the first column of a frame. -/
theorem LeftSeen.leftmost (f : Nat → Nat → Bool) (n r0 : Nat) : LeftSeen f n r0 0 0 (List.replicate n false) :=
  ⟨List.length_replicate, fun i hi => by rw [List.getD_replicate _ hi, colsBefore_zero]; rfl⟩

/-! The blocks of one plane of a macroblock (R361). -/

/-- The booleans of block `b` of a grid of `n` columns at (r0, c0) of a plane with flags `f`. -/
def gridBlockWalk (t : BlockType) (f : Nat → Nat → Bool) (n r0 c0 : Nat) (lv : List Int) (b : Nat) : List TokenBool :=
  (walkBlock t lv (planeCtx f (r0 + b / n) (c0 + b % n))).1

/-- From block `b` on, each block of a grid is walked in the context of its neighbours, and its flag is handed to those after it. -/
theorem walkGrid_from {t : BlockType} {lv : Nat → List Int} (hn : 0 < n) (hf : ∀ k < n * n, f (r0 + k / n) (c0 + k % n) = blockFlag t (lv k))
    (len : Nat) (hlen : b + len = n * n) (ha : AboveSeen f n r0 c0 b above) (hl : LeftSeen f n r0 c0 b left) :
    let w := walkGrid t n ((List.range' b len).map lv) b above left
    w.1 = (List.range' b len).flatMap (fun k => gridBlockWalk t f n r0 c0 (lv k) k) ∧ AboveSeen f n r0 c0 (n * n) w.2.1 ∧
      LeftSeen f n r0 c0 (n * n) w.2.2 := by
  induction len generalizing b above left with
  | zero =>
    obtain rfl : b = n * n := hlen
    exact ⟨rfl, ha, hl⟩
  | succ len ih =>
    have hb : b < n * n := by omega
    obtain ⟨hwalk, hseen⟩ := ih (by omega) (ha.set hn) (hl.set hn)
    simp only [List.range'_succ, List.map_cons, walkGrid, walkBlock_snd, ha.here hn, hl.here hn hb, ← hf b hb, List.flatMap_cons]
    exact ⟨congrArg (_ ++ ·) hwalk, hseen⟩

end Seen

/-! One plane of a frame, macroblock by macroblock (R360, R361). -/

/-- The flags of a plane whose macroblocks, `mbw` a row, hold `n` by `n` blocks of levels `lv`, by block row and block column. -/
def planeFlag (t : BlockType) (n mbw : Nat) (lv : Nat → Nat → List Int) (br bc : Nat) : Bool :=
  blockFlag t (lv (br / n * mbw + bc / n) (n * (br % n) + bc % n))

/-- The booleans of the blocks of macroblock `i` in a plane. -/
def gridWalk (t : BlockType) (n mbw : Nat) (lv : Nat → Nat → List Int) (i : Nat) : List TokenBool :=
  (List.range (n * n)).flatMap fun b => gridBlockWalk t (planeFlag t n mbw lv) n (n * (i / mbw)) (n * (i % mbw)) (lv i b) b

/-- The flag at the place of block `b` of macroblock `i` is that block's. -/
theorem planeFlag_block (t : BlockType) {n b : Nat} (hb : b < n * n) (mbw : Nat) (lv : Nat → Nat → List Int) (i : Nat) :
    planeFlag t n mbw lv (n * (i / mbw) + b / n) (n * (i % mbw) + b % n) = blockFlag t (lv i b) := by
  have hn : 0 < n := Nat.pos_of_ne_zero fun h => by simp [h] at hb
  have hrow : b / n < n := Nat.div_lt_of_lt_mul hb
  have hcol : b % n < n := Nat.mod_lt b hn
  rw [planeFlag, Nat.mul_add_div hn, Nat.mul_add_div hn, Nat.mul_add_mod, Nat.mul_add_mod, Nat.div_eq_of_lt hrow, Nat.div_eq_of_lt hcol,
    Nat.mod_eq_of_lt hrow, Nat.mod_eq_of_lt hcol, Nat.add_zero, Nat.add_zero, Nat.div_add_mod', Nat.div_add_mod]

/-- What stands in the contexts of one plane before macroblock `i` is walked: above, column by column, and to the left. -/
structure PlaneSeen (f : Nat → Nat → Bool) (n mbw i : Nat) (above : List (List Bool)) (left : List Bool) : Prop where
  length : above.length = mbw
  above : ∀ c < mbw, AboveSeen f n (n * rowsBefore mbw i c) (n * c) 0 (above.getD c [])
  left : LeftSeen f n (n * (i / mbw)) (n * (i % mbw)) 0 left

/-- A macroblock that does not start a row stands right of the one before it. -/
theorem next_in_row {mbw i : Nat} (h : (i + 1) % mbw ≠ 0) : (i + 1) / mbw = i / mbw ∧ (i + 1) % mbw = i % mbw + 1 := by
  have hdiv : (i + 1) / mbw = i / mbw := Nat.succ_div_of_not_dvd fun hd => h (Nat.mod_eq_zero_of_dvd hd)
  have hi := Nat.div_add_mod i mbw
  have hi' := Nat.div_add_mod (i + 1) mbw
  rw [hdiv] at hi'
  exact ⟨hdiv, by omega⟩

/-- The contexts of a plane at the start of a walk (R360). -/
theorem PlaneSeen.start (f : Nat → Nat → Bool) {n mbw : Nat} (hn : 0 < n) (hm : 0 < mbw) :
    PlaneSeen f n mbw 0 (List.replicate mbw (List.replicate n false)) (List.replicate n false) where
  length := List.length_replicate
  above c hc := by
    rw [List.getD_replicate _ hc, rowsBefore_zero hm, Nat.mul_zero]
    exact AboveSeen.top f hn _
  left := by
    rw [Nat.zero_mod, Nat.mul_zero]
    exact LeftSeen.leftmost f n _

/-- Walking a macroblock of a plane emits its blocks in their contexts and leaves the contexts of the next one, whose left ones are 0 where it
starts a row. -/
theorem PlaneSeen.walk {t : BlockType} {n mbw i : Nat} {lv : Nat → Nat → List Int} {above : List (List Bool)} {left : List Bool} (hn : 0 < n)
    (hm : 0 < mbw) (h : PlaneSeen (planeFlag t n mbw lv) n mbw i above left) :
    let w := walkGrid t n ((List.range (n * n)).map (lv i)) 0 (above.getD (i % mbw) []) left
    w.1 = gridWalk t n mbw lv i ∧
      PlaneSeen (planeFlag t n mbw lv) n mbw (i + 1) (above.set (i % mbw) w.2.1)
        (if (i + 1) % mbw = 0 then List.replicate n false else w.2.2) := by
  have hc : i % mbw < mbw := Nat.mod_lt i hm
  have hat := h.above _ hc
  rw [rowsBefore_here hm] at hat
  have hblocks : ∀ b < n * n, _ := fun b hb => planeFlag_block t hb mbw lv i
  obtain ⟨hwalk, habove, hleft⟩ := walkGrid_from hn hblocks (n * n) (Nat.zero_add _) hat h.left
  rw [← List.range_eq_range'] at hwalk habove hleft
  refine ⟨hwalk, by rw [List.length_set, h.length], fun c hc' => ?_, ?_⟩
  · rw [getD_set _ _ _ _ _ (h.length ▸ hc'), rowsBefore_succ hm i hc']
    split
    next hci => exact hci ▸ habove.below hn
    next => exact h.above c hc'
  · split
    next hrow =>
      rw [hrow, Nat.mul_zero]
      exact LeftSeen.leftmost _ _ _
    next hrow =>
      obtain ⟨hdiv, hmod⟩ := next_in_row hrow
      rw [hdiv, hmod]
      exact hleft.right hn

/-! The macroblocks of a frame (R361, R362). -/

/-- The Y2 levels of macroblock `i`. -/
def y2Of (mbs : List MbRecord) (i : Nat) : List Int := (mbs.map (·.y2)).getD i []

/-- The levels of block `b` of macroblock `i` in a plane. -/
def blocksOf (plane : MbRecord → List (List Int)) (mbs : List MbRecord) (i b : Nat) : List Int := ((mbs.map plane).getD i []).getD b []

/-- The flags of the Y2 blocks, one a macroblock. -/
def y2Flag (mbw : Nat) (mbs : List MbRecord) (r c : Nat) : Bool := blockFlag .y2 (y2Of mbs (r * mbw + c))

/-- The booleans of macroblock `i` of a frame. -/
def mbWalk (mbw : Nat) (mbs : List MbRecord) (i : Nat) : List TokenBool :=
  (walkBlock .y2 (y2Of mbs i) (planeCtx (y2Flag mbw mbs) (i / mbw) (i % mbw))).1 ++ gridWalk .yAfterY2 4 mbw (blocksOf (·.y) mbs) i ++
    gridWalk .chroma 2 mbw (blocksOf (·.u) mbs) i ++ gridWalk .chroma 2 mbw (blocksOf (·.v) mbs) i

/-- The contexts before macroblock `i` of a frame are the flags of its neighbours. -/
structure ContextsSeen (mbw : Nat) (mbs : List MbRecord) (i : Nat) (x : Contexts) : Prop where
  y2Above : AboveSeen (y2Flag mbw mbs) mbw 0 0 i x.aboveY2
  y2Left : x.leftY2 = flagLeft (y2Flag mbw mbs) (i / mbw) (i % mbw)
  y : PlaneSeen (planeFlag .yAfterY2 4 mbw (blocksOf (·.y) mbs)) 4 mbw i x.aboveY x.leftY
  u : PlaneSeen (planeFlag .chroma 2 mbw (blocksOf (·.u) mbs)) 2 mbw i x.aboveU x.leftU
  v : PlaneSeen (planeFlag .chroma 2 mbw (blocksOf (·.v) mbs)) 2 mbw i x.aboveV x.leftV

/-- The contexts a macroblock is walked in: the left ones are 0 at the start of a row (R360). -/
def enterMb (mbw i : Nat) (x : Contexts) : Contexts := if i % mbw = 0 then x.startRow else x

theorem ContextsSeen.start {mbw : Nat} (hm : 0 < mbw) (mbs : List MbRecord) : ContextsSeen mbw mbs 0 (enterMb mbw 0 (Contexts.start mbw)) := by
  rw [enterMb, if_pos (Nat.zero_mod mbw)]
  exact ⟨AboveSeen.top _ hm 0, by rw [Nat.zero_mod]; rfl, .start _ (by decide) hm, .start _ (by decide) hm, .start _ (by decide) hm⟩

/-- The records have the blocks a pass writes (R64). -/
def HasBlocks (m : MbRecord) : Prop := m.y.length = 16 ∧ m.u.length = 4 ∧ m.v.length = 4

/-- A list is its entries in order. -/
theorem eq_map_getD {α : Type} {l : List α} {n : Nat} (h : l.length = n) (d : α) : l = (List.range n).map fun i => l.getD i d := by
  refine List.ext_getElem (by simp [h]) fun i hi _ => ?_
  simp [hi]

/-- The blocks of a macroblock's plane. -/
theorem eq_map_blocksOf (plane : MbRecord → List (List Int)) {mbs : List MbRecord} {i : Nat} {m : MbRecord} (hi : mbs[i]? = some m) {n : Nat}
    (hlen : (plane m).length = n) : plane m = (List.range n).map (blocksOf plane mbs i) := by
  have hblocks : blocksOf plane mbs i = fun b => (plane m).getD b [] := funext fun b => by simp [blocksOf, hi]
  rw [hblocks]
  exact eq_map_getD hlen []

/-- Walking macroblock `i` emits its booleans and leaves the contexts of macroblock `i + 1`. -/
theorem ContextsSeen.walk {mbw : Nat} (hm : 0 < mbw) {mbs : List MbRecord} {i : Nat} {m : MbRecord} (hi : mbs[i]? = some m) (hb : HasBlocks m)
    {x : Contexts} (h : ContextsSeen mbw mbs i x) :
    let w := walkMb m (i % mbw) x
    w.1 = mbWalk mbw mbs i ∧ ContextsSeen mbw mbs (i + 1) (enterMb mbw (i + 1) w.2) := by
  obtain ⟨hy, hu, hv⟩ := hb
  obtain ⟨hwy, hsy⟩ := h.y.walk (by decide) hm
  obtain ⟨hwu, hsu⟩ := h.u.walk (by decide) hm
  obtain ⟨hwv, hsv⟩ := h.v.walk (by decide) hm
  rw [← eq_map_blocksOf (·.y) hi hy] at hwy hsy
  rw [← eq_map_blocksOf (·.u) hi hu] at hwu hsu
  rw [← eq_map_blocksOf (·.v) hi hv] at hwv hsv
  have hy2 : m.y2 = y2Of mbs i := by simp [y2Of, hi]
  have hctx : firstCtx (x.aboveY2.getD (i % mbw) false) x.leftY2 = planeCtx (y2Flag mbw mbs) (i / mbw) (i % mbw) := by
    rw [h.y2Above.here hm, h.y2Left, Nat.zero_add, Nat.zero_add, planeCtx]
  have hflag : (walkBlock .y2 m.y2 (firstCtx (x.aboveY2.getD (i % mbw) false) x.leftY2)).2 = y2Flag mbw mbs (i / mbw) (i % mbw) := by
    rw [walkBlock_snd, y2Flag, Nat.div_add_mod', hy2]
  have hy2Above := h.y2Above.set hm
  rw [Nat.zero_add, Nat.zero_add] at hy2Above
  refine ⟨?_, ?_⟩
  · simp only [walkMb, hwy, hwu, hwv, hctx, mbWalk, hy2]
  · rw [enterMb]
    by_cases hrow : (i + 1) % mbw = 0
    · simp only [if_pos hrow] at hsy hsu hsv ⊢
      exact ⟨by simpa only [walkMb, hflag, Contexts.startRow] using hy2Above, by rw [hrow]; rfl, hsy, hsu, hsv⟩
    · simp only [if_neg hrow] at hsy hsu hsv ⊢
      obtain ⟨hdiv, hmod⟩ := next_in_row hrow
      refine ⟨by simpa only [walkMb, hflag] using hy2Above, ?_, hsy, hsu, hsv⟩
      rw [hdiv, hmod]
      exact hflag

/-- From macroblock `i` on, the walk of a frame is that of its macroblocks, each in the contexts of its neighbours. -/
theorem walkMbs_eq {mbw : Nat} (hm : 0 < mbw) {mbs : List MbRecord} (hb : ∀ m ∈ mbs, HasBlocks m) (ms : List MbRecord) (i : Nat)
    (x : Contexts) (hms : mbs.drop i = ms) (hx : ContextsSeen mbw mbs i (enterMb mbw i x)) :
    (walkMbs mbw ms i x).1 = (List.range' i ms.length).flatMap (mbWalk mbw mbs) := by
  induction ms generalizing i x with
  | nil => rfl
  | cons m ms ih =>
    have hi : mbs[i]? = some m := by rw [← Nat.add_zero i, ← List.getElem?_drop, hms]; rfl
    have hnext : mbs.drop (i + 1) = ms := by rw [← List.drop_drop, hms]; rfl
    obtain ⟨hwalk, hseen⟩ := hx.walk hm hi (hb m (List.mem_of_getElem? hi))
    rw [List.length_cons, List.range'_succ, List.flatMap_cons, ← hwalk, ← ih _ _ hnext hseen]
    rfl

/-- The walk of a frame is that of its macroblocks in raster order, each block in the context of its neighbours (R361, R362). -/
theorem walkFrame_eq {mbw : Nat} (hm : 0 < mbw) {mbs : List MbRecord} (hb : ∀ m ∈ mbs, HasBlocks m) :
    (walkFrame mbw mbs).1 = (List.range mbs.length).flatMap (mbWalk mbw mbs) := by
  rw [List.range_eq_range']
  exact walkMbs_eq hm hb mbs 0 _ rfl (ContextsSeen.start hm mbs)

/-! The counts of a pass (R370, R372). -/

/-- Each tree boolean has its own entry (R372). -/
theorem nodeIndex_inj {t t' : BlockType} {b b' : Fin 8} {k k' : Fin 3} {n n' : Fin 11} :
    nodeIndex (typeIndex t) b.val k.val n.val = nodeIndex (typeIndex t') b'.val k'.val n'.val ↔ t = t' ∧ b = b' ∧ k = k' ∧ n = n' := by
  have htype : typeIndex t = typeIndex t' ↔ t = t' := by cases t <;> cases t' <;> decide
  rw [← htype, Fin.ext_iff, Fin.ext_iff, Fin.ext_iff, nodeIndex, nodeIndex]
  omega

theorem countBool_length (counts : List NodeCount) (x : TokenBool) : (countBool counts x).length = counts.length := by
  cases x <;> simp [countBool]

/-- What the booleans of a walk add to a count: the tree booleans of one node, by their bit. -/
def NodeCount.plus (c : NodeCount) (toks : List TokenBool) (node : Bool → TokenBool) : NodeCount :=
  { zeros := c.zeros + toks.count (node false), ones := c.ones + toks.count (node true) }

/-- Counting one boolean adds it to the entry of its node, on the side of its bit, and to no other (R370). -/
theorem countAt_countBool {counts : List NodeCount} (hlen : counts.length = nodeTotal) (x : TokenBool) (t : BlockType) (b : Fin 8) (k : Fin 3)
    (n : Fin 11) :
    countAt (countBool counts x) (nodeIndex (typeIndex t) b.val k.val n.val) =
      (countAt counts (nodeIndex (typeIndex t) b.val k.val n.val)).plus [x] (.node t b k n) := by
  have hi : nodeIndex (typeIndex t) b.val k.val n.val < counts.length := hlen ▸ nodeIndex_lt (typeIndex_lt t) b.isLt k.isLt n.isLt
  cases x with
  | fixed p bit => simp [countBool, NodeCount.plus]
  | node t' b' k' n' bit =>
    rw [countAt, countAt, countBool, List.getD_eq_getElem _ _ (by rwa [List.length_modify]), List.getD_eq_getElem _ _ hi, List.getElem_modify]
    split
    next heq =>
      obtain ⟨rfl, rfl, rfl, rfl⟩ := nodeIndex_inj.mp heq
      cases bit <;> simp [NodeCount.bump, NodeCount.plus]
    next hne =>
      have hother : ∀ bit', TokenBool.node t' b' k' n' bit ≠ .node t b k n bit' := by
        rintro _ h
        obtain ⟨rfl, rfl, rfl, rfl, _⟩ := TokenBool.node.inj h
        exact hne rfl
      simp [NodeCount.plus, hother]

/-- The counts of a walk are the numbers of its tree booleans, by node and bit (R370). -/
theorem countAt_foldl_countBool {counts : List NodeCount} (hlen : counts.length = nodeTotal) (toks : List TokenBool) (t : BlockType) (b : Fin 8)
    (k : Fin 3) (n : Fin 11) :
    countAt (toks.foldl countBool counts) (nodeIndex (typeIndex t) b.val k.val n.val) =
      (countAt counts (nodeIndex (typeIndex t) b.val k.val n.val)).plus toks (.node t b k n) := by
  induction toks generalizing counts with
  | nil => rfl
  | cons x toks ih =>
    rw [List.foldl_cons, ih ((countBool_length counts x).trans hlen), countAt_countBool hlen]
    simp only [NodeCount.plus, ← List.singleton_append (l := toks), List.count_append, Nat.add_assoc]

theorem countAt_countAll (toks : List TokenBool) (t : BlockType) (b : Fin 8) (k : Fin 3) (n : Fin 11) :
    countAt (countAll toks) (nodeIndex (typeIndex t) b.val k.val n.val) =
      { zeros := toks.count (.node t b k n false), ones := toks.count (.node t b k n true) } := by
  have hi : nodeIndex (typeIndex t) b.val k.val n.val < nodeTotal := nodeIndex_lt (typeIndex_lt t) b.isLt k.isLt n.isLt
  rw [countAll, countAt_foldl_countBool List.length_replicate, countAt, List.getD_replicate _ hi, NodeCount.plus]
  simp only [Nat.zero_add]

/-- Settles O49: the flag is a property of the coded levels, the contexts hold the neighbours' flags before every block of the raster order, and
each tree boolean has its own entry of the counts. -/
theorem walkFlagsNonzeroBlocks : Obligations.WalkFlagsNonzeroBlocks := by
  refine ⟨⟨rfl, rfl, rfl, rfl⟩, ⟨rfl, rfl, rfl, rfl⟩, fun t lv k => ?flag, ?walk, fun mbw q mbs t b k n => ?counts⟩
  case flag => exact ⟨by rw [walkBlock_snd, blockFlag_iff], walkBlock_of_flag_false⟩
  case walk =>
    intro mbw mbs hm hb y2 y u v nz nzY2 nzY nzU nzV ctx0
    have hctx : ctx0 = planeCtx := funext fun f => funext₂ fun br bc => (planeCtx_eq f br bc).symm
    rw [walkFrame_eq hm hb, hctx]
    rfl
  case counts =>
    have hcounts := countAt_countAll (walkFrame mbw mbs).1 t b k n
    exact ⟨congrArg NodeCount.ones hcounts, congrArg NodeCount.zeros hcounts⟩

end Sys2Proof.Machine
end

section
/-! One boolean put into the boolean encoder (10_state.md R67; 44_entropy_coder.md R341): the ranges of its fields. -/

namespace Sys2Proof.Machine

/-- The split is inside the range (R341). -/
theorem splitOf_bounds {range p : Nat} (hr : 2 ≤ range) (hp : p ≤ 255) : 1 ≤ splitOf range p ∧ splitOf range p < range := by
  have hmul : (range - 1) * p ≤ (range - 1) * 255 := Nat.mul_le_mul_left _ hp
  rw [splitOf, Nat.shiftRight_eq_div_pow]
  omega

@[simp] theorem shiftOnce_range (e : BoolEnc) : (shiftOnce e).range = e.range * 2 := by
  simp only [shiftOnce]
  split <;> rfl

theorem shiftOnce_bitCount (e : BoolEnc) : (shiftOnce e).bitCount = if e.bitCount - 1 = 0 then 8 else e.bitCount - 1 := by
  simp only [shiftOnce]
  split <;> rfl

theorem le_shiftOnce_length (e : BoolEnc) : e.out.length ≤ (shiftOnce e).out.length := by
  simp only [shiftOnce]
  split <;> split <;> simp

/-- What a turn of R341's loop keeps is kept by any number of turns. -/
theorem normalise_induct {P : BoolEnc → Prop} (hstep : ∀ e, P e → P (shiftOnce e)) (n : Nat) {e : BoolEnc} (he : P e) : P (normalise n e) := by
  induction n generalizing e with
  | zero => exact he
  | succ n ih =>
    unfold normalise
    split
    · exact ih (hstep e he)
    · exact he

/-- R67's range of `bit_count`. -/
theorem normalise_bitCount (n : Nat) {e : BoolEnc} (he : 1 ≤ e.bitCount ∧ e.bitCount ≤ 24) :
    1 ≤ (normalise n e).bitCount ∧ (normalise n e).bitCount ≤ 24 := by
  refine normalise_induct (P := fun e => 1 ≤ e.bitCount ∧ e.bitCount ≤ 24) (fun e he => ?_) n he
  rw [shiftOnce_bitCount]
  split <;> omega

theorem le_normalise_length (n : Nat) (e : BoolEnc) : e.out.length ≤ (normalise n e).out.length :=
  normalise_induct (P := fun e' => e.out.length ≤ e'.out.length) (fun e' he => he.trans (le_shiftOnce_length e')) n le_rfl

/-- The loop ends with the range between writes, where its turns are enough to double the range up to 128 (R67, R341). -/
theorem normalise_range {n : Nat} {e : BoolEnc} (henough : 128 ≤ e.range * 2 ^ n) (hle : e.range ≤ 255) :
    128 ≤ (normalise n e).range ∧ (normalise n e).range ≤ 255 := by
  induction n generalizing e with
  | zero => exact ⟨by simpa [normalise] using henough, hle⟩
  | succ n ih =>
    unfold normalise
    split
    next hlt =>
      refine ih ?_ ?_
      · rwa [shiftOnce_range, Nat.mul_assoc, ← Nat.pow_succ']
      · rw [shiftOnce_range]
        omega
    next hge => exact ⟨not_lt.mp hge, hle⟩

/-- The encoder R341's loop starts from: the lower part of the range for a 0, the upper part for a 1. -/
def splitEnc (e : BoolEnc) (p : Nat) (bit : Bool) : BoolEnc :=
  if bit then { e with bottom := e.bottom + BitVec.ofNat 32 (splitOf e.range p), range := e.range - splitOf e.range p }
  else { e with range := splitOf e.range p }

theorem putBool_eq (e : BoolEnc) (p : Nat) (bit : Bool) : putBool e p bit = normalise 7 (splitEnc e p bit) := rfl

@[simp] theorem splitEnc_out (e : BoolEnc) (p : Nat) (bit : Bool) : (splitEnc e p bit).out = e.out := by cases bit <;> rfl

@[simp] theorem splitEnc_bitCount (e : BoolEnc) (p : Nat) (bit : Bool) : (splitEnc e p bit).bitCount = e.bitCount := by cases bit <;> rfl

@[simp] theorem splitEnc_range (e : BoolEnc) (p : Nat) (bit : Bool) :
    (splitEnc e p bit).range = if bit then e.range - splitOf e.range p else splitOf e.range p := by cases bit <;> rfl

/-- Settles O47: neither part of the range is empty, so seven turns of the loop bring it back into 128..255. -/
theorem putKeepsTheCoderState : Obligations.PutKeepsTheCoderState := by
  intro e p bit hr128 hr255 hc1 hc24 _ hp
  have hsplit := splitOf_bounds (range := e.range) (by omega) hp
  have hpart : 1 ≤ (splitEnc e p bit).range ∧ (splitEnc e p bit).range ≤ 255 := by
    rw [splitEnc_range]
    split <;> omega
  obtain ⟨hlow, hhigh⟩ := normalise_range (n := 7) (by omega) hpart.2
  obtain ⟨hc, hc'⟩ := normalise_bitCount 7 (e := splitEnc e p bit) (by simpa using ⟨hc1, hc24⟩)
  have hout := le_normalise_length 7 (splitEnc e p bit)
  rw [splitEnc_out] at hout
  exact ⟨hsplit.1, hsplit.2, hlow, hhigh, hc, hc', hout, flushBytes_length _⟩

end Sys2Proof.Machine
end

section
/-! The booleans of the first partition in order, and their number (44_entropy_coder.md R371, R372, R380 to R388). -/

namespace Sys2Proof.Machine

/-! The entries in the order of R372. -/

/-- A list over `m` groups of `n` is the lists over the groups, one after another. -/
theorem flatMap_range_mul {α : Type} (m n : Nat) (f : Nat → List α) :
    (List.range (m * n)).flatMap f = (List.range m).flatMap fun i => (List.range n).flatMap fun j => f (i * n + j) := by
  induction m with
  | zero => simp
  | succ m ih =>
    rw [Nat.succ_mul, List.range_add, List.flatMap_append, ih, List.range_succ, List.flatMap_append, List.flatMap_map]
    simp

/-- The order t, b, k, n of the entries (R372). -/
theorem flatMap_range_nodeTotal {α : Type} (f : Nat → List α) :
    (List.range nodeTotal).flatMap f =
      (List.range 4).flatMap fun t => (List.range 8).flatMap fun b => (List.range 3).flatMap fun k => (List.range 11).flatMap fun n =>
        f (nodeIndex t b k n) := by
  have hshape : nodeTotal = 4 * 8 * 3 * 11 := rfl
  rw [hshape, flatMap_range_mul, flatMap_range_mul, flatMap_range_mul]
  rfl

/-! Each entry's booleans. -/

/-- The booleans of the entry at place `i`: the flag and, where it is 1, the new probability (R372). -/
def entryBools (counts : List NodeCount) (i : Nat) : List (Nat × Bool) :=
  (atNode Config.coefUpdateProb i, updated counts i) :: (if updated counts i then litBools (newProb (countAt counts i)) 8 else [])

theorem updateBools_eq (counts : List NodeCount) : updateBools counts = (List.range nodeTotal).flatMap (entryBools counts) := rfl

theorem updated_iff (counts : List NodeCount) (i : Nat) :
    updated counts i = true ↔ 0 < (countAt counts i).total ∧ newProb (countAt counts i) ≠ atNode Config.defaultCoefProb i := by
  rw [updated, Bool.and_eq_true, decide_eq_true_iff, decide_eq_true_iff]

theorem entryBools_eq (counts : List NodeCount) (i : Nat) :
    entryBools counts i =
      if 0 < (countAt counts i).total ∧ newProb (countAt counts i) ≠ atNode Config.defaultCoefProb i then
        (atNode Config.coefUpdateProb i, true) :: litBools (newProb (countAt counts i)) 8
      else [(atNode Config.coefUpdateProb i, false)] := by
  simp only [entryBools, ← updated_iff]
  cases updated counts i <;> rfl

theorem entryBools_length (counts : List NodeCount) (i : Nat) :
    (entryBools counts i).length = 1 + if updated counts i then 8 else 0 := by
  rw [entryBools, List.length_cons, Nat.add_comm]
  split <;> simp

/-- One flag an entry and eight bits an updated one (R372). -/
theorem entryBools_flatMap_length (counts : List NodeCount) (is : List Nat) :
    (is.flatMap (entryBools counts)).length = is.length + 8 * (is.filter (updated counts)).length := by
  induction is with
  | nil => rfl
  | cons i is ih =>
    rw [List.flatMap_cons, List.length_append, ih, entryBools_length, List.filter_cons, List.length_cons]
    split
    · rw [List.length_cons]; omega
    · omega

/-! The other fields. -/

/-- The 29 bits of the fields before the probability updates (R380 to R387). -/
theorem headerBools_eq (q : QIndex) : headerBools q = List.replicate 16 (128, false) ++ litBools q.val 7 ++ List.replicate 6 (128, false) := rfl

theorem modeBools_flatMap_length (mbs : List MbRecord) : (mbs.flatMap modeBools).length = 4 * mbs.length := by
  simp [List.length_flatMap, modeBools_length, Nat.mul_comm]

theorem firstPartitionBools_length (q : QIndex) (counts : List NodeCount) (mbs : List MbRecord) :
    (firstPartitionBools q counts mbs).length =
      29 + nodeTotal + 8 * ((List.range nodeTotal).filter (updated counts)).length + 1 + 4 * mbs.length := by
  simp only [firstPartitionBools, headerBools_eq, updateBools_eq, List.length_append, entryBools_flatMap_length, modeBools_flatMap_length,
    litBools_length, List.length_replicate, List.length_range]
  omega

/-- The first partition of a pass is the flush of its booleans, with the counts of the pass (R390). -/
theorem codeFrame_e1_out (mbw : Nat) (q : QIndex) (mbs : List MbRecord) :
    (codeFrame mbw q mbs).e1.out = flushBytes (putAll BoolEnc.init (firstPartitionBools q (codeFrame mbw q mbs).counts mbs)) := by
  simp only [codeFrame, flushEnc]

/-- Settles O53: the header's fields are the literal bits, the place of an entry runs through t, b, k, n in order, and each field has its number of
booleans. -/
theorem firstPartitionLayout : Obligations.FirstPartitionLayout := by
  intro q counts mbs bits8 update modes
  have hupdate : updateBools counts =
      (List.range 4).flatMap fun t => (List.range 8).flatMap fun b => (List.range 3).flatMap fun k => (List.range 11).flatMap fun n =>
        update t b k n := by
    rw [updateBools_eq, flatMap_range_nodeTotal]
    refine List.flatMap_congr fun t _ => List.flatMap_congr fun b hb => List.flatMap_congr fun k hk => List.flatMap_congr fun n hn => ?_
    have hentry {α : Type} (f : Nat → Nat → Nat → Nat → α) : atNode f (nodeIndex t b k n) = f t b k n :=
      atNode_nodeIndex f (List.mem_range.mp hb) (List.mem_range.mp hk) (List.mem_range.mp hn)
    rw [entryBools_eq, hentry, hentry]
    rfl
  have hmodes : modeBools = modes := by
    funext m
    simp only [modeBools, modes]
    cases m.ymode <;> cases m.uvmode <;> rfl
  refine ⟨?_, firstPartitionBools_length q counts mbs, fun mbw => codeFrame_e1_out mbw q mbs⟩
  rw [firstPartitionBools, headerBools_eq, hupdate, hmodes]
  rfl

end Sys2Proof.Machine
end

section
/-! The booleans of one block (43_transform_quant.md R310; 44_entropy_coder.md R350 to R354): all of them in order, and that no two sequences of
levels share them. -/

namespace Sys2Proof.Machine

/-! The coded levels. -/

/-- The coded levels are the levels from the first coded position on, without the zeros at the end (R350). -/
theorem codedLevels_eq_rdropWhile (lv : List Int) (first : Nat) : codedLevels lv first = ((zigzag lv).drop first).rdropWhile (· == 0) := rfl

theorem rdropWhile_append_of_forall {α : Type} {p : α → Bool} (l : List α) {l' : List α} (h : ∀ x ∈ l', p x) :
    (l ++ l').rdropWhile p = l.rdropWhile p := by
  rw [List.rdropWhile, List.reverse_append, List.dropWhile_append_of_pos (by simpa using h), List.rdropWhile]

/-- Zeros at the end of a block may be left out. -/
theorem coefAt_rdropWhile_zero (c : List Int) (j : Nat) : coefAt (c.rdropWhile (· == 0)) j = coefAt c j := by
  induction c using List.reverseRecOn with
  | nil => rfl
  | append_singleton c x ih =>
    by_cases hx : x = 0
    · rw [List.rdropWhile_concat_pos _ _ _ (by simpa using hx), ih, hx]
      by_cases hj : j < c.length
      · rw [coefAt, coefAt, List.getD_append _ _ _ _ hj]
      · rw [coefAt, coefAt, List.getD_append_right _ _ _ _ (not_lt.mp hj), List.getD_eq_default _ _ (not_lt.mp hj)]
        cases j - c.length <;> rfl
    · rw [List.rdropWhile_concat_neg _ _ _ (by simpa using hx)]

/-- The coded levels are the block's own. -/
theorem coefAt_codedLevels (lv : List Int) (first j : Nat) : coefAt (codedLevels lv first) j = coefAt (zigzag lv) (first + j) := by
  rw [codedLevels_eq_rdropWhile, coefAt_rdropWhile_zero, coefAt, coefAt, List.getD_eq_getElem?_getD, List.getElem?_drop,
    List.getD_eq_getElem?_getD]

/-- The scan order from the first coded position on (R310). -/
theorem zigzag_drop {lv : List Int} {z : Nat → Int} (hz : ∀ i < 16, coefAt (zigzag lv) i = z i) (first : Nat) :
    (zigzag lv).drop first = (List.range' first (16 - first)).map z := by
  have hall : zigzag lv = (List.range' 0 16).map z :=
    (eq_map_getD rfl 0).trans (List.range_eq_range' ▸ List.map_congr_left fun i hi => hz i (List.mem_range.mp hi))
  rw [hall, ← List.map_drop, List.drop_range', Nat.mul_one, Nat.zero_add]

/-- The coded levels end at the last nonzero one (R350). -/
theorem codedLevels_eq {lv : List Int} {z : Nat → Int} (hz : ∀ i < 16, coefAt (zigzag lv) i = z i) {first last : Nat} (hfirst : first ≤ last)
    (hlast : last < 16) (hne : z last ≠ 0) (hzero : ∀ i, last < i → i < 16 → z i = 0) :
    codedLevels lv first = (List.range' first (last + 1 - first)).map z := by
  have hupto : List.range' first (last + 1 - first) = List.range' first (last - first) ++ [last] := by
    rw [Nat.sub_add_comm hfirst, List.range'_1_concat, Nat.add_sub_cancel' hfirst]
  have hscan : List.range' first (16 - first) = List.range' first (last + 1 - first) ++ List.range' (last + 1) (15 - last) := by
    have happend := List.range'_append_1 (s := first) (m := last + 1 - first) (n := 15 - last)
    rw [Nat.add_sub_cancel' (Nat.le_succ_of_le hfirst)] at happend
    rw [happend, show last + 1 - first + (15 - last) = 16 - first by omega]
  have htail : ∀ v ∈ (List.range' (last + 1) (15 - last)).map z, (v == 0) = true := by
    intro v hv
    obtain ⟨i, hi, rfl⟩ := List.mem_map.mp hv
    rw [List.mem_range'_1] at hi
    exact beq_iff_eq.mpr (hzero i (by omega) (by omega))
  rw [codedLevels_eq_rdropWhile, zigzag_drop hz, hscan, List.map_append, rdropWhile_append_of_forall _ htail, hupto, List.map_append]
  exact List.rdropWhile_concat_neg _ _ _ (by simpa using hne)

/-! Extra bits (R352). -/

theorem extraBools_length (base : Nat) (pcat : List Nat) (v : Nat) : (extraBools base pcat v).length = pcat.length := List.length_mapIdx

/-- The extra bits of a category determine its values. -/
theorem extraBools_inj {base : Nat} {pcat : List Nat} {v w : Nat} (hv : base ≤ v ∧ v < base + 2 ^ pcat.length)
    (hw : base ≤ w ∧ w < base + 2 ^ pcat.length) (h : extraBools base pcat v = extraBools base pcat w) : v = w := by
  have hbits : v - base = w - base := by
    refine Nat.eq_of_testBit_eq fun i => ?_
    by_cases hi : i < pcat.length
    · have hj : pcat.length - 1 - i < pcat.length := by omega
      have hget := congrArg (fun l => l[pcat.length - 1 - i]?) h
      simp only [extraBools, List.getElem?_mapIdx, List.getElem?_eq_getElem hj, Option.map_some, Option.some.injEq, TokenBool.fixed.injEq,
        true_and] at hget
      rwa [show pcat.length - 1 - (pcat.length - 1 - i) = i by omega] at hget
    · have hlarge : 2 ^ pcat.length ≤ 2 ^ i := Nat.pow_le_pow_right (by decide) (not_lt.mp hi)
      rw [Nat.testBit_lt_two_pow (by omega), Nat.testBit_lt_two_pow (by omega)]
  omega

/-! Magnitudes (R351). -/

/-- A token of R351: its path in the tree from node 2 on, its least value and the probabilities of its extra bits. -/
structure MagnitudeToken where
  path : List (Fin 11 × Bool)
  base : Nat
  pcat : List Nat

/-- The four values with a token of their own and the six categories (R351, R352). -/
def magnitudeToken : Fin 10 → MagnitudeToken
  | 0 => ⟨[(2, false)], 1, []⟩
  | 1 => ⟨[(2, true), (3, false), (4, false)], 2, []⟩
  | 2 => ⟨[(2, true), (3, false), (4, true), (5, false)], 3, []⟩
  | 3 => ⟨[(2, true), (3, false), (4, true), (5, true)], 4, []⟩
  | 4 => ⟨[(2, true), (3, true), (6, false), (7, false)], 5, [159]⟩
  | 5 => ⟨[(2, true), (3, true), (6, false), (7, true)], 7, [165, 145]⟩
  | 6 => ⟨[(2, true), (3, true), (6, true), (8, false), (9, false)], 11, [173, 148, 140]⟩
  | 7 => ⟨[(2, true), (3, true), (6, true), (8, false), (9, true)], 19, [176, 155, 140, 135]⟩
  | 8 => ⟨[(2, true), (3, true), (6, true), (8, true), (10, false)], 35, [180, 157, 141, 134, 130]⟩
  | 9 => ⟨[(2, true), (3, true), (6, true), (8, true), (10, true)], 67, [254, 254, 243, 230, 196, 177, 153, 140, 133, 130, 129]⟩

/-- The token of a magnitude. -/
def tokenOf (v : Nat) : Fin 10 :=
  if v = 1 then 0 else if v = 2 then 1 else if v = 3 then 2 else if v = 4 then 3 else if v ≤ 6 then 4 else if v ≤ 10 then 5
  else if v ≤ 18 then 6 else if v ≤ 34 then 7 else if v ≤ 66 then 8 else 9

/-- One boolean of a tree path. -/
def pathBool (t : BlockType) (b : Fin 8) (k : Fin 3) (e : Fin 11 × Bool) : TokenBool := .node t b k e.1 e.2

theorem pathBool_injective (t : BlockType) (b : Fin 8) (k : Fin 3) : Function.Injective (pathBool t b k) := by
  intro e e' h
  obtain ⟨_, _, _, hn, hbit⟩ := TokenBool.node.inj h
  exact Prod.ext hn hbit

/-- A token's path and extra bits for a magnitude (R351). -/
def magnitudeBools (t : BlockType) (b : Fin 8) (k : Fin 3) (v : Nat) (c : Fin 10) : List TokenBool :=
  (magnitudeToken c).path.map (pathBool t b k) ++ extraBools (magnitudeToken c).base (magnitudeToken c).pcat v

/-- What is chosen by the token of a magnitude is chosen by the magnitude. -/
theorem apply_tokenOf {α : Type} (f : Fin 10 → α) (v : Nat) :
    f (tokenOf v) =
      if v = 1 then f 0 else if v = 2 then f 1 else if v = 3 then f 2 else if v = 4 then f 3 else if v ≤ 6 then f 4 else if v ≤ 10 then f 5
      else if v ≤ 18 then f 6 else if v ≤ 34 then f 7 else if v ≤ 66 then f 8 else f 9 := by
  simp only [tokenOf, apply_ite f]

/-- A magnitude is coded as the booleans of its token (R351). -/
theorem codeMagnitude_eq (t : BlockType) (b : Fin 8) (k : Fin 3) {v : Nat} (hv : 1 ≤ v) :
    codeMagnitude t b k v = magnitudeBools t b k v (tokenOf v) := by
  rw [apply_tokenOf (magnitudeBools t b k v)]
  repeat' split
  next h => subst h; rfl
  next h => subst h; rfl
  next h => subst h; rfl
  next h => subst h; rfl
  all_goals
    simp (disch := omega) only [codeMagnitude, extraBits, if_pos, if_neg, decide_eq_true, decide_eq_false]
    rfl

/-- A level of R64's range fits the extra bits of its token. -/
theorem tokenOf_base_le {v : Nat} (hv : 1 ≤ v ∧ v ≤ 2047) :
    (magnitudeToken (tokenOf v)).base ≤ v ∧ v < (magnitudeToken (tokenOf v)).base + 2 ^ (magnitudeToken (tokenOf v)).pcat.length := by
  rw [apply_tokenOf fun c => (magnitudeToken c).base ≤ v ∧ v < (magnitudeToken c).base + 2 ^ (magnitudeToken c).pcat.length]
  simp only [magnitudeToken, List.length_cons, List.length_nil]
  repeat' split
  all_goals omega

/-- No token's path begins another's. -/
theorem magnitudeToken_prefixFree : ∀ c c' : Fin 10, (magnitudeToken c).path <+: (magnitudeToken c').path → c = c' := by decide

/-- A magnitude can be read off the front of the booleans it is coded in. -/
theorem codeMagnitude_append_inj {t : BlockType} {b : Fin 8} {k : Fin 3} {v w : Nat} (hv : 1 ≤ v ∧ v ≤ 2047) (hw : 1 ≤ w ∧ w ≤ 2047)
    {r s : List TokenBool} (h : codeMagnitude t b k v ++ r = codeMagnitude t b k w ++ s) : v = w ∧ r = s := by
  have hinj := pathBool_injective t b k
  rw [codeMagnitude_eq t b k hv.1, codeMagnitude_eq t b k hw.1, magnitudeBools, magnitudeBools, List.append_assoc, List.append_assoc] at h
  have htoken : tokenOf v = tokenOf w := by
    have hprefix := List.prefix_or_prefix_of_prefix (List.prefix_append _ _) (h ▸ List.prefix_append _ _)
    rw [List.prefix_map_iff_of_injective hinj, List.prefix_map_iff_of_injective hinj] at hprefix
    exact hprefix.elim (fun hp => (magnitudeToken_prefixFree _ _ hp).symm) fun hp => magnitudeToken_prefixFree _ _ hp
  have hv' := tokenOf_base_le hv
  rw [htoken] at h hv'
  obtain ⟨hextra, hrest⟩ := List.append_inj (List.append_cancel_left h) (by rw [extraBools_length, extraBools_length])
  exact ⟨extraBools_inj hv' (tokenOf_base_le hw) hextra, hrest⟩

/-! Levels (R350). -/

/-- The booleans of one level: zero or not, and of a level that is not 0 its magnitude and its sign. -/
def levelBools (t : BlockType) (b : Fin 8) (k : Fin 3) (z : Int) : List TokenBool :=
  if z = 0 then [.node t b k 1 false]
  else .node t b k 1 true :: (codeMagnitude t b k z.natAbs ++ [TokenBool.fixed 128 (decide (z < 0))])

/-- The context a level leaves to the next one (R353). -/
def nextCtx (z : Int) : Fin 3 := if z = 0 then 0 else if z.natAbs = 1 then 1 else 2

theorem walkFrom_nil (t : BlockType) (i : Nat) (k : Fin 3) (skipEob : Bool) :
    walkFrom t [] i k skipEob = if i = 16 then [] else [TokenBool.node t (bandAt i) k 0 false] := rfl

theorem walkFrom_cons (t : BlockType) (z : Int) (zs : List Int) (i : Nat) (k : Fin 3) (skipEob : Bool) :
    walkFrom t (z :: zs) i k skipEob =
      (if skipEob then [] else [TokenBool.node t (bandAt i) k 0 true]) ++
        (levelBools t (bandAt i) k z ++ walkFrom t zs (i + 1) (nextCtx z) (decide (z = 0))) := by
  rw [walkFrom, levelBools, nextCtx]
  by_cases hz : z = 0 <;> simp [hz]

/-- A level can be read off the front of the booleans it is coded in. -/
theorem levelBools_append_inj {t : BlockType} {b : Fin 8} {k : Fin 3} {z w : Int} (hz : z.natAbs ≤ 2047) (hw : w.natAbs ≤ 2047)
    {r s : List TokenBool} (h : levelBools t b k z ++ r = levelBools t b k w ++ s) : z = w ∧ r = s := by
  unfold levelBools at h
  split_ifs at h with hz0 hw0 hw0
  · exact ⟨hz0.trans hw0.symm, List.append_cancel_left h⟩
  · simp at h
  · simp at h
  · rw [List.cons_append, List.cons_append, List.append_assoc, List.append_assoc] at h
    obtain ⟨habs, hrest⟩ := codeMagnitude_append_inj (by omega) (by omega) (List.cons.inj h).2
    obtain ⟨hsign, hrest⟩ := List.cons.inj hrest
    have hneg : z < 0 ↔ w < 0 := decide_eq_decide.mp (TokenBool.fixed.inj hsign).2
    exact ⟨by omega, hrest⟩

/-! The walk of a block determines its levels. -/

/-- Where one walk ends and another codes a level, they differ: by the EOB flag, or after a zero by the zero flag. -/
theorem walkFrom_nil_ne_cons (t : BlockType) (w : Int) (ws : List Int) (i : Nat) (k : Fin 3) (skipEob : Bool) :
    walkFrom t [] i k skipEob ≠ walkFrom t (w :: ws) i k skipEob := by
  rw [walkFrom_nil, walkFrom_cons, levelBools]
  cases skipEob <;> split_ifs <;> simp

/-- Level by level, the walk can be read back: what precedes a level fixes its context and whether an EOB flag stands before it. -/
theorem walkFrom_inj {t : BlockType} {zs ws : List Int} {i : Nat} {k : Fin 3} {skipEob : Bool} (hzs : ∀ z ∈ zs, z.natAbs ≤ 2047)
    (hws : ∀ w ∈ ws, w.natAbs ≤ 2047) (h : walkFrom t zs i k skipEob = walkFrom t ws i k skipEob) : zs = ws := by
  induction zs generalizing ws i k skipEob with
  | nil =>
    cases ws with
    | nil => rfl
    | cons w ws => exact absurd h (walkFrom_nil_ne_cons t w ws i k skipEob)
  | cons z zs ih =>
    cases ws with
    | nil => exact absurd h.symm (walkFrom_nil_ne_cons t z zs i k skipEob)
    | cons w ws =>
      rw [List.forall_mem_cons] at hzs hws
      rw [walkFrom_cons, walkFrom_cons] at h
      obtain ⟨rfl, hrest⟩ := levelBools_append_inj hzs.1 hws.1 (List.append_cancel_left h)
      rw [ih hzs.2 hws.2 hrest]

/-- The levels a block codes are levels of the block, or 0 where it has none. -/
theorem codedLevels_natAbs_le {lv : List Int} {n : Nat} (h : ∀ v ∈ lv, v.natAbs ≤ n) (first : Nat) :
    ∀ v ∈ codedLevels lv first, v.natAbs ≤ n := by
  intro v hv
  rw [codedLevels_eq_rdropWhile] at hv
  obtain ⟨p, _, rfl⟩ := List.mem_map.mp (List.mem_of_mem_drop ((List.rdropWhile_prefix _ _).subset hv))
  exact coefAt_natAbs_le h p

/-- Two blocks with the same booleans have the same levels at every coded position. -/
theorem walkBlock_inj {t : BlockType} {k : Fin 3} {lv lv' : List Int} (hlv : ∀ v ∈ lv, v.natAbs ≤ 2047) (hlv' : ∀ v ∈ lv', v.natAbs ≤ 2047)
    (h : (walkBlock t lv k).1 = (walkBlock t lv' k).1) : SameCoded (firstPosition t) lv lv' := by
  have hcoded : codedLevels lv (firstPosition t) = codedLevels lv' (firstPosition t) :=
    walkFrom_inj (codedLevels_natAbs_le hlv _) (codedLevels_natAbs_le hlv' _) h
  intro i hi _
  rw [← Nat.add_sub_cancel' hi, ← coefAt_codedLevels, ← coefAt_codedLevels, hcoded]

/-! All booleans of a block, position by position. -/

section Positions

variable (t : BlockType) (k : Fin 3) (first : Nat) (z : Nat → Int)

/-- The context of scan position `i` (R353, R360). -/
def ctxAt (i : Nat) : Fin 3 := if i = first then k else nextCtx (z (i - 1))

/-- The booleans of scan position `i`: no EOB flag after a zero (R350). -/
def positionBools (i : Nat) : List TokenBool :=
  (if first < i ∧ z (i - 1) = 0 then [] else [TokenBool.node t (bandAt i) (ctxAt k first z i) 0 true]) ++
    levelBools t (bandAt i) (ctxAt k first z i) (z i)

theorem ctxAt_first : ctxAt k first z first = k := if_pos rfl

variable {first}

theorem ctxAt_succ {i : Nat} (hi : first ≤ i) : ctxAt k first z (i + 1) = nextCtx (z i) := if_neg (by omega)

/-- The walk of `m` levels from scan position `i` on, in the context and with the EOB flag the level before it left. -/
theorem walkFrom_eq (m : Nat) {i : Nat} (hi : first ≤ i) :
    walkFrom t ((List.range' i m).map z) i (ctxAt k first z i) (decide (first < i ∧ z (i - 1) = 0)) =
      (List.range' i m).flatMap (positionBools t k first z) ++
        if i + m = 16 then [] else [TokenBool.node t (bandAt (i + m)) (ctxAt k first z (i + m)) 0 false] := by
  induction m generalizing i with
  | zero => rfl
  | succ m ih =>
    have hskip : decide (z i = 0) = decide (first < i + 1 ∧ z (i + 1 - 1) = 0) :=
      decide_eq_decide.mpr (by rw [Nat.add_sub_cancel, and_iff_right (by omega)])
    rw [List.range'_succ, List.map_cons, List.flatMap_cons, walkFrom_cons, ← ctxAt_succ k z hi, hskip, ih (Nat.le_succ_of_le hi),
      Nat.add_right_comm i 1 m, Nat.add_assoc i m 1]
    simp only [positionBools, decide_eq_true_eq, List.append_assoc]

/-- The walk of a block with a nonzero level: the booleans of its scan positions up to the last nonzero one, and an EOB unless that is the last. -/
theorem walkBlock_eq {lv : List Int} (hz : ∀ i < 16, coefAt (zigzag lv) i = z i) (htype : firstPosition t = first) {last : Nat}
    (hfirst : first ≤ last) (hlast : last < 16) (hne : z last ≠ 0) (hzero : ∀ i, last < i → i < 16 → z i = 0) :
    (walkBlock t lv k).1 =
      (List.range' first (last + 1 - first)).flatMap (positionBools t k first z) ++
        if last = 15 then [] else [TokenBool.node t (bandAt (last + 1)) (ctxAt k first z (last + 1)) 0 false] := by
  have hwalk := walkFrom_eq t k z (last + 1 - first) (le_refl first)
  rw [Nat.add_sub_cancel' (by omega : first ≤ last + 1), ctxAt_first, decide_eq_false (by omega)] at hwalk
  simp only [walkBlock, htype, codedLevels_eq hz hfirst hlast hne hzero, hwalk, Nat.succ_inj]

end Positions

theorem bandAt_eq {i : Nat} (hi : i < 16) (d : Fin 8) : bandAt i = bandTable.getD i d := by
  rw [bandAt, List.getD_eq_getElem _ _ hi, List.getD_eq_getElem _ _ hi]

theorem coefAt_zigzag (lv : List Int) {i : Nat} (hi : i < 16) : coefAt (zigzag lv) i = coefAt lv (zigzagTable.getD i 0) :=
  getD_map_of_lt (coefAt lv) (show i < zigzagTable.length from hi) 0 0

/-- Settles O50: the walk goes position by position, and each level can be read off the front of the booleans from its position on. -/
theorem tokensDetermineTheLevels : Obligations.TokensDetermineTheLevels := by
  refine ⟨?layout, fun t k lv lv' => walkBlock_inj⟩
  case layout =>
    intro t k lv last first z hfirst hlast hne hzero band ctx node extra magnitude token
    have htype : firstPosition t = first := by cases t <;> rfl
    have hmagnitude (i v : Nat) (hi : i < 16) (hv : 1 ≤ v) : codeMagnitude t (bandAt i) (ctxAt k first z i) v = magnitude i v := by
      rw [codeMagnitude_eq t _ _ hv, bandAt_eq hi 0]
      exact apply_tokenOf (magnitudeBools t (band i) (ctx i) v) v
    have hposition (i : Nat) (hi : i < 16) : positionBools t k first z i = token i := by
      simp only [positionBools, levelBools, token]
      by_cases hz : z i = 0
      · rw [if_pos hz, if_pos hz, bandAt_eq hi 0]
        rfl
      · rw [if_neg hz, if_neg hz, hmagnitude i _ hi (by omega), bandAt_eq hi 0]
        rfl
    rw [← List.flatMap_map (first + ·) token, ← List.range'_eq_map_range]
    refine (walkBlock_eq t k z (fun i hi => coefAt_zigzag lv hi) htype hfirst hlast hne hzero).trans (congrArg₂ (· ++ ·) ?_ ?_)
    · exact List.flatMap_congr fun i hi => hposition i (by have := List.mem_range'_1.mp hi; omega)
    · split_ifs with h15
      · rfl
      · rw [bandAt_eq (by omega) 0]
        rfl

end Sys2Proof.Machine
end

section
/-! The rate controller (45_rate_control.md R401 to R409): its square root and quality table, the tolerance and the closest result, and what the step
after a pass can do. -/

namespace Sys2Proof.Machine

/-! The square root and the quality table. -/

/-- With the root between `acc` and `acc + 2 ^ n`, the `n` bits still to come make it exact (R13). -/
theorem isqrtBits_spec {v n acc : Nat} (hlo : acc * acc ≤ v) (hhi : v < (acc + 2 ^ n) * (acc + 2 ^ n)) :
    isqrtBits v n acc * isqrtBits v n acc ≤ v ∧ v < (isqrtBits v n acc + 1) * (isqrtBits v n acc + 1) := by
  induction n generalizing acc with
  | zero => exact ⟨hlo, hhi⟩
  | succ n ih =>
    rw [pow_succ, mul_two, ← Nat.add_assoc] at hhi
    rw [isqrtBits]
    split_ifs with hbit
    · exact ih hbit hhi
    · exact ih hlo (not_le.mp hbit)

/-- R13's root is the natural square root wherever 16 bits can hold it (log 17). -/
theorem isqrt_eq_sqrt {v : Nat} (hv : v < 2 ^ 32) : isqrt v = Nat.sqrt v :=
  Nat.eq_sqrt.mpr (isqrtBits_spec (Nat.zero_le v) (by omega))

/-- The index of R401 needs no reduction to 7 bits. -/
theorem qualityIndex_val (quality : Nat) : (qualityIndex quality).val = 127 - 127 * isqrt (100 * quality) / 100 :=
  Nat.mod_eq_of_lt (by omega)

/-- A higher quality never gives a higher index: the root grows with the quality (R402). -/
theorem qualityIndex_antitone {a b : Nat} (hab : a ≤ b) (hb : b ≤ 100) : qualityIndex b ≤ qualityIndex a := by
  have hroot : isqrt (100 * a) ≤ isqrt (100 * b) := by
    rw [isqrt_eq_sqrt (by omega), isqrt_eq_sqrt (by omega)]
    exact Nat.sqrt_le_sqrt (Nat.mul_le_mul_left 100 hab)
  rw [Fin.le_def, qualityIndex_val, qualityIndex_val]
  omega

/-- Settles O54: the table is evaluated; the other two clauses go through the natural square root. -/
theorem qualityMapping : Obligations.QualityMapping := by
  refine ⟨by decide +kernel, fun q hq => qualityIndex_antitone (Nat.le_succ q) hq, fun v hv => ?root⟩
  case root =>
    rw [isqrt_eq_sqrt hv]
    exact ⟨Nat.sqrt_le v, Nat.lt_succ_sqrt v⟩

/-! The tolerance and the closest result. -/

/-- The tolerance of one part in twenty, on exact integers (R406). -/
theorem within_iff (size target : Nat) : within size target = true ↔ 20 * ((size : Int) - target).natAbs ≤ target := by
  rw [within, decide_eq_true_iff, Config.tolDen, Config.tolNum]
  omega

/-- The sizes that stop the loop before it narrows its interval (R409). -/
theorem stopsAtOnce_iff (mode : RateMode) (size target : Nat) :
    stopsAtOnce mode size target = true ↔ mode = .default ∨ 20 * ((size : Int) - target).natAbs ≤ target := by
  cases mode with
  | default => simp [stopsAtOnce]
  | target => simp [stopsAtOnce, within_iff]

/-- Settles O55: the tolerance is `within_iff`, and each case of R408's choice is one case of `closest`. -/
theorem toleranceAndClosestResult : Obligations.ToleranceAndClosestResult := by
  refine ⟨within_iff, by decide, fun _ _ _ => ?_, fun _ _ => ?_, fun _ _ _ => ?_⟩ <;> rfl

/-! The step after a pass. -/

/-- The search interval that the pass with result `r` leaves (R409). -/
def intervalAfter (ses : Session) (r : PassResult) : Int × Int := narrowed ses.lo ses.hi ses.q r.size ses.cfg.target.toNat

/-- The session with one more pass counted and its result offered as the closest (R405, R408). -/
def countPass (ses : Session) (r : PassResult) : Session :=
  { ses with k := ses.k + 1, best := some (closest ses.mode ses.cfg.target.toNat ses.best r) }

/-- All that the step after a pass can do (R409): stop at once, stop with its interval narrowed, or go on at the middle of what is left. -/
theorem rateStep_cases (ses : Session) (r : PassResult) :
    (stopsAtOnce ses.mode r.size ses.cfg.target.toNat = true ∧ rateStep ses r = (countPass ses r, .stop)) ∨
    stopsAtOnce ses.mode r.size ses.cfg.target.toNat = false ∧
      (((intervalAfter ses r).2 < (intervalAfter ses r).1 ∨ 8 ≤ ses.k + 1) ∧
          rateStep ses r = ({ countPass ses r with lo := (intervalAfter ses r).1, hi := (intervalAfter ses r).2 }, .stop) ∨
        ((intervalAfter ses r).1 ≤ (intervalAfter ses r).2 ∧ ses.k + 1 < 8) ∧
          rateStep ses r =
            ({ countPass ses r with
                lo := (intervalAfter ses r).1
                hi := (intervalAfter ses r).2
                q := midIndex (intervalAfter ses r).1 (intervalAfter ses r).2 },
              .again (midIndex (intervalAfter ses r).1 (intervalAfter ses r).2))) := by
  unfold rateStep
  by_cases honce : stopsAtOnce ses.mode r.size ses.cfg.target.toNat = true
  · exact .inl ⟨honce, if_pos honce⟩
  · refine .inr ⟨Bool.eq_false_of_not_eq_true honce, ?_⟩
    rw [if_neg honce]
    by_cases hend : (intervalAfter ses r).2 < (intervalAfter ses r).1 ∨ 8 ≤ ses.k + 1
    · exact .inl ⟨hend, if_pos hend⟩
    · exact .inr ⟨by omega, if_neg hend⟩

/-- Narrowing keeps a part of the interval on one side of the index that was tried: above it after a file that is too large (R409). -/
theorem narrowed_shrinks {lo hi : Int} {q : QIndex} (hlo : lo ≤ (q.val : Int)) (hhi : (q.val : Int) ≤ hi) (size target : Nat) :
    let n := narrowed lo hi q size target
    lo ≤ n.1 ∧ n.2 ≤ hi ∧ n.2 - n.1 < hi - lo ∧ ((q.val : Int) < n.1 ∨ n.2 < (q.val : Int)) ∧ (target < size ↔ (q.val : Int) < n.1) := by
  unfold narrowed
  split_ifs <;> dsimp only <;> omega

/-- The middle of an interval of 0..127 is half the sum of its ends, rounded down (R409). -/
theorem midIndex_val {lo hi : Int} (hlo : 0 ≤ lo) (hle : lo ≤ hi) (hhi : hi ≤ 127) : ((midIndex lo hi).val : Int) = (lo + hi) / 2 := by
  simp only [midIndex, sar, Fin.val_ofNat, pow_one]
  omega

/-- Another pass follows only with an index inside the smaller interval that is left (R407, R409). -/
theorem rateStep_again {ses : Session} (hin : InInterval ses) {r : PassResult} {q' : QIndex} (hv : (rateStep ses r).2 = .again q') :
    let t := (rateStep ses r).1
    t.q = q' ∧ t.k = ses.k + 1 ∧ t.k < 8 ∧ ses.lo ≤ t.lo ∧ t.hi ≤ ses.hi ∧ t.hi - t.lo < ses.hi - ses.lo ∧
    t.lo ≤ (q'.val : Int) ∧ (q'.val : Int) ≤ t.hi ∧ ((ses.q.val : Int) < t.lo ∨ t.hi < (ses.q.val : Int)) ∧
    (q'.val : Int) = (t.lo + t.hi) / 2 ∧ (ses.cfg.target.toNat < r.size ↔ (ses.q.val : Int) < t.lo) := by
  obtain ⟨hlo, hloq, hqhi, hhi⟩ := hin
  rcases rateStep_cases ses r with ⟨_, hstep⟩ | ⟨_, ⟨_, hstep⟩ | ⟨⟨hle, hk⟩, hstep⟩⟩
  · simp [hstep] at hv
  · simp [hstep] at hv
  · obtain ⟨hlo', hhi', hless, hout, hside⟩ := narrowed_shrinks hloq hqhi r.size ses.cfg.target.toNat
    obtain ⟨hml, hmh⟩ := midIndex_mem (hlo.trans hlo') hle (hhi'.trans hhi)
    have hmid := midIndex_val (hlo.trans hlo') hle (hhi'.trans hhi)
    rw [hstep] at hv ⊢
    obtain rfl := RateVerdict.again.inj hv
    exact ⟨rfl, rfl, hk, hlo', hhi', hless, hml, hmh, hout, hmid, hside⟩

/-- Default mode, or a size within tolerance, ends the loop (R409). -/
theorem rateStep_stop {ses : Session} {r : PassResult} (h : stopsAtOnce ses.mode r.size ses.cfg.target.toNat = true) :
    (rateStep ses r).2 = .stop := by
  rcases rateStep_cases ses r with ⟨_, hstep⟩ | ⟨honce, _⟩
  · rw [hstep]
  · simp [h] at honce

/-- Where the loop does not stop at once, its interval is narrowed, and what is left of it and the passes run decide (R407, R409). -/
theorem rateStep_narrows {ses : Session} (hin : InInterval ses) {r : PassResult}
    (h : stopsAtOnce ses.mode r.size ses.cfg.target.toNat = false) :
    let lo := (intervalAfter ses r).1
    let hi := (intervalAfter ses r).2
    let t := (rateStep ses r).1
    (t.lo = lo ∧ t.hi = hi ∧ t.k = ses.k + 1) ∧
    (lo ≤ hi → ses.k + 1 < 8 → ∃ q' : QIndex, (rateStep ses r).2 = .again q' ∧ t.q = q' ∧ (q'.val : Int) = (lo + hi) / 2) ∧
    (hi < lo ∨ 8 ≤ ses.k + 1 → (rateStep ses r).2 = .stop) := by
  obtain ⟨hlo, _, _, hhi⟩ := hin
  obtain ⟨hlo', hhi'⟩ := narrowed_bounds ses.q hlo hhi r.size ses.cfg.target.toNat
  rcases rateStep_cases ses r with ⟨honce, _⟩ | ⟨_, ⟨hend, hstep⟩ | ⟨⟨hle, hk⟩, hstep⟩⟩
  · simp [h] at honce
  · rw [hstep]
    exact ⟨⟨rfl, rfl, rfl⟩, fun hle hk => by omega, fun _ => rfl⟩
  · rw [hstep]
    exact ⟨⟨rfl, rfl, rfl⟩, fun _ _ => ⟨_, rfl, rfl, midIndex_val hlo' hle hhi'⟩, fun hend => by omega⟩

/-- The step after a pass touches the count, the closest result, the interval and the index, and a stop leaves the index (R405, R408). -/
theorem rateStep_frame (ses : Session) (r : PassResult) :
    let t := (rateStep ses r).1
    t = { countPass ses r with q := t.q, lo := t.lo, hi := t.hi } ∧ ((rateStep ses r).2 = .stop → t.q = ses.q) := by
  rcases rateStep_cases ses r with ⟨_, hstep⟩ | ⟨_, ⟨_, hstep⟩ | ⟨_, hstep⟩⟩ <;> rw [hstep]
  · exact ⟨rfl, fun _ => rfl⟩
  · exact ⟨rfl, fun _ => rfl⟩
  · exact ⟨rfl, fun hstop => nomatch hstop⟩

/-- The narrowed interval, end by end (R409). -/
theorem intervalAfter_eq (ses : Session) (r : PassResult) :
    intervalAfter ses r =
      (if ses.cfg.target.toNat < r.size then (ses.q.val : Int) + 1 else ses.lo,
       if ses.cfg.target.toNat < r.size then ses.hi else (ses.q.val : Int) - 1) := by
  unfold intervalAfter narrowed
  split_ifs <;> rfl

/-- Settles O56: each clause reads off the cases of `rateStep_cases`. -/
theorem passLoopMakesProgress : Obligations.PassLoopMakesProgress := by
  refine ⟨fun ses r q' hlo hloq hqhi hhi hv => rateStep_again ⟨hlo, hloq, hqhi, hhi⟩ hv,
    fun ses r hstop => rateStep_stop ((stopsAtOnce_iff _ _ _).mpr hstop), ?narrows, rateStep_frame⟩
  case narrows =>
    intro ses r hlo hloq hqhi hhi hmode hmiss
    have hgo : stopsAtOnce ses.mode r.size ses.cfg.target.toNat = false := by
      rw [Bool.eq_false_iff, ne_eq, stopsAtOnce_iff, hmode]
      simpa using hmiss
    have hnarrows := rateStep_narrows ⟨hlo, hloq, hqhi, hhi⟩ hgo
    rwa [intervalAfter_eq] at hnarrows

end Sys2Proof.Machine
end

section
/-! The Container Writer's bytes (46_container.md R430 to R438): the key-frame header, and the file of a payload and of a pass. -/

namespace Sys2Proof.Machine

/-! The key-frame header (R436). -/

theorem frameHeader_length (fps w h : Nat) : (frameHeader fps w h).length = 10 := rfl

theorem frameHeader_tag (fps w h : Nat) : (frameHeader fps w h).take 3 = leBytes 3 (16 + fps * 32) := rfl

theorem frameHeader_startCode (fps w h : Nat) : ((frameHeader fps w h).drop 3).take 3 = [0x9D, 0x01, 0x2A] := rfl

theorem frameHeader_width (fps w h : Nat) : ((frameHeader fps w h).drop 6).take 2 = leBytes 2 w := rfl

theorem frameHeader_height (fps w h : Nat) : (frameHeader fps w h).drop 8 = leBytes 2 h := rfl

/-- A number that fits its bytes is the one they stand for (R431). -/
theorem leValue_leBytes_of_lt {n v : Nat} (h : v < 256 ^ n) : leValue (leBytes n v) = v := by
  rw [leValue_leBytes, Nat.mod_eq_of_lt h]

/-- Settles O57: each field is `LE` of its number at its place, and each number fits its bytes. -/
theorem frameHeaderFields : Obligations.FrameHeaderFields := by
  intro fps w h hfps hw hh f
  have htag : leValue (f.take 3) = 2 ^ 4 + 2 ^ 5 * fps := by
    rw [frameHeader_tag, leValue_leBytes_of_lt (by omega)]
    omega
  have hwidth : leValue ((f.drop 6).take 2) = w := by rw [frameHeader_width, leValue_leBytes_of_lt (by omega)]
  have hheight : leValue (f.drop 8) = h := by rw [frameHeader_height, leValue_leBytes_of_lt (by omega)]
  exact ⟨frameHeader_length fps w h, htag, frameHeader_startCode fps w h, hwidth, hheight⟩

/-! The file of a payload (R432, R433, R437). -/

/-- The pad makes the payload's length even (R433). -/
@[simp] theorem padOf_length (l : Nat) : (padOf l).length = l % 2 := by
  unfold padOf
  split
  next hodd => exact hodd.symm
  next heven => exact (Nat.mod_two_ne_one.mp heven).symm

theorem riffSize_eq (l : Nat) : riffSize l = 12 + l + l % 2 := by rw [riffSize, padOf_length]

theorem webpFile_riffCode (payload : List Byte) : (webpFile payload).take 4 = riffCode := rfl

theorem webpFile_riffSize (payload : List Byte) : ((webpFile payload).drop 4).take 4 = leBytes 4 (riffSize payload.length) := rfl

theorem webpFile_webpCode (payload : List Byte) : ((webpFile payload).drop 8).take 4 = webpCode := rfl

theorem webpFile_vp8Code (payload : List Byte) : ((webpFile payload).drop 12).take 4 = vp8Code := rfl

theorem webpFile_chunkSize (payload : List Byte) : ((webpFile payload).drop 16).take 4 = leBytes 4 payload.length := rfl

/-- The payload starts at byte 20 and the pad ends the file (R433, R437). -/
theorem webpFile_drop_header (payload : List Byte) : (webpFile payload).drop 20 = payload ++ padOf payload.length := rfl

theorem webpFile_length (payload : List Byte) : (webpFile payload).length = 20 + payload.length + payload.length % 2 := by
  calc (webpFile payload).length
      = ((webpFile payload).take 20).length + ((webpFile payload).drop 20).length := by rw [← List.length_append, List.take_append_drop]
    _ = 20 + (payload ++ padOf payload.length).length := rfl
    _ = 20 + payload.length + payload.length % 2 := by rw [List.length_append, padOf_length, Nat.add_assoc]

theorem webpFile_payload (payload : List Byte) : ((webpFile payload).drop 20).take payload.length = payload := by
  rw [webpFile_drop_header, List.take_left]

theorem webpFile_pad (payload : List Byte) : (webpFile payload).drop (20 + payload.length) = padOf payload.length := by
  rw [← List.drop_drop, webpFile_drop_header, List.drop_left]

/-- A payload whose RIFF size fits its field gives a well-formed file (the spec's inference in R438). -/
theorem webpFile_wellFormed {payload : List Byte} (hfit : 12 + payload.length + payload.length % 2 ≤ 0xFFFFFFFF) :
    let f := webpFile payload
    f.take 4 = riffCode ∧ (f.drop 8).take 4 = webpCode ∧ (f.drop 12).take 4 = vp8Code ∧
    f.length = 8 + leValue ((f.drop 4).take 4) ∧ f.length % 2 = 0 ∧ leValue ((f.drop 16).take 4) = payload.length ∧
    (f.drop 20).take payload.length = payload ∧ f.length = 20 + payload.length + payload.length % 2 ∧
    f.drop (20 + payload.length) = padOf payload.length := by
  intro f
  have hlen : f.length = 20 + payload.length + payload.length % 2 := webpFile_length payload
  have hriff : leValue ((f.drop 4).take 4) = 12 + payload.length + payload.length % 2 := by
    rw [webpFile_riffSize, riffSize_eq, leValue_leBytes_of_lt (by omega)]
  have hchunk : leValue ((f.drop 16).take 4) = payload.length := by
    rw [webpFile_chunkSize, leValue_leBytes_of_lt (by omega)]
  exact ⟨webpFile_riffCode payload, webpFile_webpCode payload, webpFile_vp8Code payload, by omega, by omega, hchunk,
    webpFile_payload payload, hlen, webpFile_pad payload⟩

/-! The payload and the result of a pass (44_entropy_coder.md R390; 45_rate_control.md R405). -/

/-- The payload a session holds is the header and the two partitions (R390). -/
theorem payload_eq (ses : Session) :
    ses.payload = frameHeader ses.e1.out.length ses.cfg.width.toNat ses.cfg.height.toNat ++ ses.e1.out ++ ses.e2.out := rfl

/-- A flushed encoder holds at least the four bytes of its flush (R344), so a pass's partitions have four bytes each. -/
theorem runPass_partitions_length (ses : Session) : 4 ≤ (runPass ses).e1.out.length ∧ 4 ≤ (runPass ses).e2.out.length := by
  simp only [runPass, codeFrame_e1_out, codeFrame_e2_out, flushBytes_length]
  omega

theorem runPass_payload_length (ses : Session) : 18 ≤ (runPass ses).payload.length := by
  obtain ⟨h1, h2⟩ := runPass_partitions_length ses
  simp only [payload_eq, List.length_append, frameHeader_length]
  omega

/-- The result of the pass a session holds, with the size of its file written out (R405). -/
theorem result_eq (ses : Session) :
    ses.result =
      { file := webpFile ses.payload
        size := 20 + ses.payload.length + ses.payload.length % 2
        q := ses.q
        payloadLen := ses.payload.length } := by
  rw [Session.result, webpFile_length]

/-- Settles O58: the file by its fields, the payload and the result of a pass by the equations of what its session holds. -/
theorem filesAreWellFormed : Obligations.FilesAreWellFormed :=
  ⟨fun _ => webpFile_wellFormed, fun ses => ⟨runPass_payload_length ses, payload_eq (runPass ses), result_eq (runPass ses)⟩⟩

end Sys2Proof.Machine
end

section
/-! Phase WRITE (40_commands.md R193, R197; 46_container.md R440; 60_exceptions.md R465; 70_reset_and_hazards.md R521). -/

namespace Sys2Proof.Machine

/-! The bytes WRITE stores. -/

/-- Within the address space two distances from one base give two addresses (20_memory.md R104). -/
theorem addrPlus_inj {base : Word} {i j : Nat} (hi : i < 2 ^ 32) (hj : j < 2 ^ 32) (h : addrPlus base i = addrPlus base j) : i = j := by
  have hoffset : BitVec.ofNat 32 i = BitVec.ofNat 32 j := (BitVec.add_right_inj base).mp h
  have hmod : i % 2 ^ 32 = j % 2 ^ 32 := congrArg BitVec.toNat hoffset
  rwa [Nat.mod_eq_of_lt hi, Nat.mod_eq_of_lt hj] at hmod

/-- The addresses of a file's bytes, in order (R440). -/
theorem destCells_map_fst (dst : Word) (file : List Byte) :
    (destCells dst file).map (·.1) = (List.range file.length).map fun i => (addrPlus dst i).toNat :=
  List.ext_getElem (by simp [destCells]) fun i _ _ => by simp [destCells]

/-- A file that fits the address space has one address for each byte (R440). -/
theorem destCells_nodup (dst : Word) {file : List Byte} (hlen : file.length ≤ 2 ^ 32) : ((destCells dst file).map (·.1)).Nodup := by
  rw [destCells_map_fst]
  refine List.nodup_range.map_on fun i hi j hj haddr => ?_
  exact addrPlus_inj ((List.mem_range.mp hi).trans_le hlen) ((List.mem_range.mp hj).trans_le hlen) (BitVec.eq_of_toNat_eq haddr)

/-- The host's byte stands only where the host stored while the block was in WRITE (R521; log 11). -/
theorem mem_dstRace_of_hostByteStands {s : State} {a : Nat} (h : hostByteStands s a = true) : a ∈ s.dstRace := by
  unfold hostByteStands at h
  split at h
  next hrace => exact List.contains_iff_mem.mp hrace
  next => cases h

theorem mem_writtenCells_iff {s : State} {file : List Byte} {c : Host.Cell} :
    c ∈ writtenCells s file ↔ c ∈ destCells s.session.cfg.dstAddr file ∧ hostByteStands s c.1 = false := by
  simp [writtenCells]

/-- After the writes each of the file's addresses holds the file's byte, or what it held where the host's byte stands (R440, R521). -/
theorem readByte_written {s : State} {file : List Byte} (hwf : s.mem.wf = true) (hlen : file.length ≤ 2 ^ 32) {i : Nat} (hi : i < file.length) :
    let a := (addrPlus s.session.cfg.dstAddr i).toNat
    readByte (writeCells s.mem (writtenCells s file)) a = if hostByteStands s a then readByte s.mem a else file.getD i 0 := by
  intro a
  split
  next hstands =>
    refine readByte_writeCells_other fun c hc hca => ?_
    simp [← hca, (mem_writtenCells_iff.mp hc).2] at hstands
  next hgone =>
    have hcell : (a, file.getD i 0) ∈ writtenCells s file :=
      mem_writtenCells_iff.mpr
        ⟨List.mem_mapIdx.mpr ⟨i, hi, by rw [List.getD_eq_getElem file 0 hi]⟩, Bool.eq_false_of_not_eq_true hgone⟩
    have hlt : ∀ c ∈ writtenCells s file, c.1 < 2 ^ 32 := fun c hc => by
      obtain ⟨j, _, haddr, _⟩ := mem_destCells (mem_writtenCells_iff.mp hc).1
      exact haddr ▸ BitVec.isLt _
    exact readByte_writeCells_mem hwf hlt ((destCells_nodup _ hlen).sublist (List.filter_sublist.map _)) hcell

/-- Each of the file's addresses ends as the file's byte or as the host left it, and as the file's where no store raced (R440, R521). -/
theorem readByte_written_raced {s : State} {file : List Byte} (hwf : s.mem.wf = true) (hlen : file.length ≤ 2 ^ 32) {i : Nat}
    (hi : i < file.length) :
    let a := (addrPlus s.session.cfg.dstAddr i).toNat
    let v := readByte (writeCells s.mem (writtenCells s file)) a
    (a ∉ s.dstRace → v = file.getD i 0) ∧ (v = file.getD i 0 ∨ v = readByte s.mem a) := by
  intro a v
  have hread : v = if hostByteStands s a then readByte s.mem a else file.getD i 0 := readByte_written hwf hlen hi
  split at hread
  next hstands => exact ⟨fun hnoRace => absurd (mem_dstRace_of_hostByteStands hstands) hnoRace, .inr hread⟩
  next => exact ⟨fun _ => hread, .inl hread⟩

/-- The writes leave every byte outside the file's addresses alone (R440). -/
theorem readByte_written_other {s : State} {file : List Byte} {a : Nat}
    (ha : ∀ i < file.length, a ≠ (addrPlus s.session.cfg.dstAddr i).toNat) :
    readByte (writeCells s.mem (writtenCells s file)) a = readByte s.mem a := by
  refine readByte_writeCells_other fun c hc hca => ?_
  obtain ⟨i, hi, haddr, _⟩ := mem_destCells (mem_writtenCells_iff.mp hc).1
  exact ha i hi (hca.symm.trans haddr)

/-! Completion and error entry, whole. -/

/-- Completion keeps the reserved bits of STATUS (10_state.md R46). -/
theorem complete_sameReservedStatus (best : PassResult) (s : State) : SameReservedStatus s (complete best s) := by
  intro j hj
  rw [complete_regs_status, statusCompleted, getLsbD_setBit_reserved _ (by decide) hj, getLsbD_setBit_reserved _ (by decide) hj]

/-- Completion raises DONE, so the interrupt line is its enable (60_exceptions.md R480). -/
theorem complete_irq (best : PassResult) (s : State) : (complete best s).irq = s.irqEn := by
  simp [State.irq, State.irqEn]

/-- Everything error entry sets and everything it keeps (60_exceptions.md R470). -/
theorem raiseError_errored (code : ErrorCode) (s : State) : Errored (errorNumber code) s (raiseError code s) := by
  have hirq : (raiseError code s).irq = s.irqEn := by simp [State.irq, State.irqEn]
  have hreserved : SameReservedStatus s (raiseError code s) := by
    intro j hj
    rw [raiseError_regs_status, statusErrored, getLsbD_setBit_reserved _ (by decide) hj, getLsbD_setBit_reserved _ (by decide) hj,
      getLsbD_setBit_reserved _ (by decide) hj]
  exact ⟨rfl, rfl, raiseError_err _ _, raiseError_busy _ _, raiseError_done _ _, raiseError_cmdDropped _ _, raiseError_badCmd _ _,
    rfl, rfl, rfl, rfl, hirq, ⟨rfl, rfl, rfl, rfl, rfl, rfl, rfl, rfl, rfl, rfl, rfl, rfl⟩, hreserved, ⟨rfl, rfl, rfl, rfl, rfl, rfl, rfl⟩⟩

/-! The transition. -/

section WithResult
variable {s : State} {best : PassResult} (hp : s.phase = .write) (hi : s.inputs = []) (hb : s.session.best = some best)
include hp hi hb

/-- A file that does not fit raises its error before any byte is written (R465). -/
theorem step_write_overflow (hlarge : s.session.cfg.dstCap.toNat < best.size) : step s = .next (raiseError .encodingOverflow s) := by
  simp only [step_of_no_input hi, stepBlock, hp, stepWrite, hb, if_pos hlarge]

/-- A file that fits, where the platform admits every access, is written and completes the encode (R193, R440). -/
theorem step_write_complete (hfit : best.size ≤ s.session.cfg.dstCap.toNat)
    (hadm : ∀ i < best.size, regionKind s.platform (addrPlus s.session.cfg.dstAddr i) ≠ .absent) :
    step s = .next (complete best { s with mem := writeCells s.mem (writtenCells s best.file), freeCount := s.freeCount + 1 }) := by
  have hall : admitted s.platform ((List.range best.size).map (addrPlus s.session.cfg.dstAddr)) = true := by
    simpa [admitted] using hadm
  simp only [step_of_no_input hi, stepBlock, hp, stepWrite, hb, if_neg (not_lt.mpr hfit), hall, if_true]

end WithResult

/-- Settles O25: a file that fits takes the transition to `complete`, over memory with the file's bytes; one that does not, to `raiseError`. -/
theorem writeStoresTheFile : Obligations.WriteStoresTheFile := by
  intro s best hp hi hb hsize hwf
  refine ⟨fun hfit hadm => ?completes, fun hlarge => ⟨_, step_write_overflow hp hi hb hlarge, raiseError_errored _ s⟩⟩
  case completes =>
    have hcap : best.size < 2 ^ 32 := hfit.trans_lt (BitVec.isLt _)
    have hq : best.q.val < 2 ^ 32 := best.q.isLt.trans (by decide)
    exact ⟨_, step_write_complete hp hi hb hfit hadm, fun i hlt _ => readByte_written_raced hwf (hsize ▸ hcap.le) (hsize ▸ hlt),
      fun a ha => readByte_written_other (hsize ▸ ha), Nat.mod_eq_of_lt hcap, rfl, Nat.mod_eq_of_lt hq, rfl, complete_busy _ _,
      complete_done _ _, complete_err _ _, complete_cmdDropped _ _, complete_badCmd _ _, rfl, rfl, complete_irq _ _,
      ⟨rfl, rfl, rfl, rfl, rfl, rfl, rfl, rfl, rfl, rfl, rfl, rfl⟩, complete_sameReservedStatus _ _, rfl, rfl, rfl, rfl, rfl⟩

end Sys2Proof.Machine
end

section
/-! The end of an encode as the host sees it (60_exceptions.md R461 to R466, R470, R480; 40_commands.md R190 to R192). -/

namespace Sys2Proof.Machine

/-! How a transition ends an encode (R470; 40_commands.md R197). -/

/-- The block returns to IDLE by error entry or by completion, and by nothing else (R470; 40_commands.md R197). -/
theorem stepBlock_ends {s t : State} (h : stepBlock s = .next t) (hrun : s.phase ≠ .idle) (hidle : t.phase = .idle) :
    (∃ code, t = raiseError code s) ∨
    ∃ best, t = complete best { s with mem := writeCells s.mem (writtenCells s best.file), freeCount := s.freeCount + 1 } := by
  rcases stepBlock_cases h with ⟨hp, _⟩ | ⟨_, h⟩ | ⟨_, h⟩ | ⟨_, h⟩ | ⟨_, h⟩
  · exact absurd hp hrun
  · rcases stepCheck_cases h with ⟨code, _, ht⟩ | ⟨_, _, rfl⟩
    · exact .inl ⟨code, ht⟩
    · cases hidle
  · rcases stepConvert_cases h with ⟨_, rfl⟩ | ⟨_, rfl⟩
    · cases hidle
    · exact absurd hidle hrun
  · rcases stepPass_cases h with ⟨_, ht⟩ | ⟨_, rfl⟩
    · exact .inl ⟨_, ht⟩
    · rcases phaseAfter_cases (rateStep (runPass s.session) (runPass s.session).result).2 with hnext | hnext <;>
        cases hnext.symm.trans hidle
  · obtain ⟨best, _, ⟨_, ht⟩ | ⟨_, ht | rfl⟩⟩ := stepWrite_cases h
    · exact .inl ⟨_, ht⟩
    · exact .inr ⟨best, ht⟩
    · exact absurd hidle hrun

/-- The codes of error entry (R460). -/
theorem errorNumber_mem (code : ErrorCode) : errorNumber code ∈ [(1 : Word), 2, 3, 4, 5] := by
  cases code <;> decide

/-- Settles O21: of the two ends completion sets DONE, so the other, error entry, was taken. -/
theorem errorEntry : Obligations.ErrorEntry := by
  intro s t h hrun hidle hdone
  rcases stepBlock_ends h hrun hidle with ⟨code, rfl⟩ | ⟨best, rfl⟩
  · exact ⟨_, errorNumber_mem code, raiseError_errored code s⟩
  · simp at hdone

/-! The interrupt line after each update (R480). -/

@[simp] theorem acceptEncode_irq (cfg : EncConfig) (s : State) : (acceptEncode cfg s).irq = false := by simp [State.irq]
@[simp] theorem acknowledge_irq (s : State) : (acknowledge s).irq = false := by simp [State.irq]
@[simp] theorem raiseError_irq (code : ErrorCode) (s : State) : (raiseError code s).irq = s.irqEn := by simp [State.irq, State.irqEn]
@[simp] theorem resetBlock_irq (s : State) : (resetBlock s).irq = false := by simp [State.irq, State.irqEn, Regs.reset]

/-- Both ends of an encode set DONE or ERR, so the line is then its enable (R480). -/
theorem stepBlock_ends_irq {s t : State} (h : stepBlock s = .next t) (hrun : s.phase ≠ .idle) (hidle : t.phase = .idle) :
    t.irq = s.irqEn := by
  rcases stepBlock_ends h hrun hidle with ⟨code, rfl⟩ | ⟨best, rfl⟩
  · exact raiseError_irq code s
  · exact complete_irq best _

/-- A command that is not dropped leaves neither DONE nor ERR set (R480; 40_commands.md R183, R188). -/
theorem exec_command_lowers_irq {s : State} {i : Instr} (hb : s.busy = false) (hi : i = .encode ∨ i = .encodeSimple ∨ i = .clear) :
    ∃ t, exec i s = .next t ∧ t.irq = false := by
  rcases hi with rfl | rfl | rfl
  · exact ⟨_, exec_encode_of_not_busy hb, acceptEncode_irq _ s⟩
  · exact ⟨_, exec_encodeSimple_of_not_busy hb, acceptEncode_irq _ s⟩
  · exact ⟨_, exec_clear_of_not_busy hb, acknowledge_irq s⟩

theorem step_reset {s : State} {rest : List Input} (h : s.inputs = .reset :: rest) :
    step s = .next (resetBlock { s with inputs := rest }) := by
  simp only [step, h]

/-- Settles O18: the level's definition, and what it is after each transition, command, CTRL write and reset that moves it. -/
theorem interruptIsALevel : Obligations.InterruptIsALevel := by
  refine ⟨fun _ => rfl, fun s t => stepBlock_ends_irq, fun s d => ?ctrl, fun s i => exec_command_lowers_irq,
    fun s rest hin => ⟨_, step_reset hin, resetBlock_irq _⟩⟩
  case ctrl =>
    obtain ⟨_, hwrite⟩ := ctrlHasOneBit
    obtain ⟨t, hx, _, hirq⟩ := hwrite s d
    exact ⟨t, hx, hirq⟩

/-! CHECK (R461 to R463, R466). -/

theorem badDimensions_iff (c : EncConfig) :
    badDimensions c = true ↔ c.width ≤ 0 ∨ c.height ≤ 0 ∨ 16383 < c.width ∨ 16383 < c.height := by
  simp only [badDimensions, Bool.or_eq_true, decide_eq_true_eq, or_assoc]
  rfl

theorem bufferTooSmall_iff (c : EncConfig) :
    bufferTooSmall c = true ↔
      (c.stride.toNat : Int) < 4 * c.width ∨ (c.srcLen.toNat : Int) < (c.stride.toNat : Int) * c.height := by
  simp only [bufferTooSmall, Bool.or_eq_true, decide_eq_true_eq]

/-- The checks in their order, each with its condition written out (R466). -/
theorem checkConfig_eq (c : EncConfig) :
    checkConfig c =
      if c.width ≤ 0 ∨ c.height ≤ 0 ∨ 16383 < c.width ∨ 16383 < c.height then some .invalidDimensions
      else if c.format ≠ 0 then some .unsupportedPixelFormat
      else if (c.stride.toNat : Int) < 4 * c.width ∨ (c.srcLen.toNat : Int) < (c.stride.toNat : Int) * c.height then
        some .bufferTooSmall
      else none := by
  simp only [checkConfig, badDimensions_iff, bufferTooSmall_iff]

section Check
variable {s : State} (hp : s.phase = .check) (hi : s.inputs = [])
include hp hi

/-- CHECK of a snapshot that fails is error entry with the code found (R470). -/
theorem step_check_errored {code : ErrorCode} (hc : checkConfig s.session.cfg = some code) :
    ∃ t, step s = .next t ∧ Errored (errorNumber code) s t := by
  refine ⟨raiseError code s, ?_, raiseError_errored code s⟩
  simp only [step_of_no_input hi, stepBlock, hp, stepCheck, hc]

/-- CHECK of a legal snapshot is refused for where its buffers lie, or leads to CONVERT (R190; 20_memory.md R109, R113). -/
theorem step_check_legal (hc : checkConfig s.session.cfg = none) :
    (∃ r, step s = .refused r) ∨ step s = .next { s with phase := .convert } := by
  cases hu : unsupportedRegion s.platform s.session.cfg with
  | some r => exact .inl ⟨r, step_check_refused hp hi hc hu⟩
  | none => exact .inr (step_check_supported hp hi hc hu)

end Check

/-- Settles O19: the four branches are those of `checkConfig_eq`. -/
theorem checkOrder : Obligations.CheckOrder := by
  intro s hp hi c
  have hcheck := checkConfig_eq c
  split_ifs at hcheck ⊢
  case pos => exact step_check_errored hp hi hcheck
  case pos => exact step_check_errored hp hi hcheck
  case pos => exact step_check_errored hp hi hcheck
  case neg => exact step_check_legal hp hi hcheck

/-! PASS (R464; 40_commands.md R192). -/

/-- A pass is too large when its first partition has 2^19 bytes or more or its RIFF size passes 32 bits (R464). -/
theorem payloadTooLarge_iff (ses : Session) :
    payloadTooLarge ses = true ↔
      2 ^ 19 ≤ ses.e1.out.length ∨ 0xFFFFFFFF < 12 + ses.payload.length + ses.payload.length % 2 := by
  simp only [payloadTooLarge, riffSize_eq, Bool.or_eq_true, decide_eq_true_eq]

/-- The phase tells the verdict (45_rate_control.md R409). -/
theorem phaseAfter_verdict (v : RateVerdict) :
    (phaseAfter v = .pass ∧ ∃ q, v = .again q) ∨ (phaseAfter v = .write ∧ v = .stop) := by
  cases v with
  | stop => exact .inr ⟨rfl, rfl⟩
  | again q => exact .inl ⟨rfl, q, rfl⟩

/-- Settles O24: a pass is error entry or the rate controller's step, as `payloadTooLarge_iff` decides. -/
theorem payloadTooLargeEndsTheEncode : Obligations.PayloadTooLargeEndsTheEncode := by
  intro s hp hi p l
  obtain ⟨t, ht⟩ := stepPass_answers s
  have hst : step s = .next t := by rw [step_of_no_input hi, stepBlock, hp]; exact ht
  refine ⟨t, hst, ?_⟩
  rcases stepPass_cases ht with ⟨hlarge, rfl⟩ | ⟨hfits, rfl⟩
  · rw [if_pos ((payloadTooLarge_iff p).mp hlarge)]
    exact raiseError_errored .payloadTooLarge s
  · rw [if_neg fun hlarge => Bool.false_ne_true (hfits.symm.trans ((payloadTooLarge_iff p).mpr hlarge))]
    exact ⟨rfl, phaseAfter_verdict _, rfl, ⟨rfl, rfl, rfl, rfl, rfl, rfl, rfl⟩, rfl, rfl⟩

/-! WRITE (R465). -/

/-- A file that fits raises no error, stored or not (R465). -/
theorem stepWrite_fits {s t : State} {best : PassResult} (hb : s.session.best = some best)
    (hfit : best.size ≤ s.session.cfg.dstCap.toNat) (h : stepWrite s = .next t) :
    t.err = s.err ∧ t.regs.errCode = s.regs.errCode := by
  obtain ⟨best', hb', ⟨hlarge, _⟩ | ⟨_, rfl | rfl⟩⟩ := stepWrite_cases h
  · obtain rfl : best' = best := Option.some.inj (hb'.symm.trans hb)
    exact absurd hlarge (not_lt.mpr hfit)
  · exact ⟨complete_err best' _, rfl⟩
  · exact ⟨rfl, rfl⟩

/-- Settles O23: a file that does not fit is error entry, whose frame holds host memory; one that fits is none of it. -/
theorem overflowComesBeforeTheWrite : Obligations.OverflowComesBeforeTheWrite := by
  intro s best hp hi hb
  have hwrite : step s = stepWrite s := by rw [step_of_no_input hi, stepBlock, hp]
  exact ⟨fun hlarge => ⟨_, step_write_overflow hp hi hb hlarge, raiseError_errored .encodingOverflow s⟩,
    fun hfit t hst => stepWrite_fits hb hfit (hwrite.symm.trans hst)⟩

end Sys2Proof.Machine
end

section
/-! Host memory in its canonical form (20_memory.md section 1; log 2). -/

namespace Sys2Proof.Machine

/-- A store at the port keeps the canonical form: its address has 32 bits. -/
theorem portStore_wf (a : Word) (b : Byte) {s : State} (h : s.mem.wf = true) : (portStore a.toNat b s).mem.wf = true := by
  rw [portStore_mem]
  exact writeByte_wf h b a.isLt

theorem storeEffect_wf (a : Word) (b : Byte) {s : State} (h : s.mem.wf = true) : (storeEffect a.toNat b s).mem.wf = true := by
  unfold storeEffect
  split
  · exact portStore_wf a b h
  · exact h

theorem cleanEffect_wf (a : Word) {s : State} (h : s.mem.wf = true) : (cleanEffect a.toNat s).mem.wf = true := by
  unfold cleanEffect
  split
  next l _ =>
    split
    · exact portStore_wf a l.byte h
    · exact h
  next => exact h

/-- The bytes WRITE stores have addresses of 32 bits (R440). -/
theorem mem_writtenCells_lt {s : State} {file : List Byte} {c : Host.Cell} (h : c ∈ writtenCells s file) : c.1 < 2 ^ 32 := by
  obtain ⟨_, _, haddr, _⟩ := mem_destCells (mem_writtenCells_iff.mp h).1
  exact haddr ▸ BitVec.isLt _

theorem stepWrite_wf {s t : State} (h : s.mem.wf = true) (hst : stepWrite s = .next t) : t.mem.wf = true := by
  obtain ⟨best, _, ⟨_, rfl⟩ | ⟨_, rfl | rfl⟩⟩ := stepWrite_cases hst
  · exact h
  · exact writeCells_wf h fun _ => mem_writtenCells_lt
  · exact h

theorem stepBlock_wf {s t : State} (h : s.mem.wf = true) (hst : stepBlock s = .next t) : t.mem.wf = true := by
  by_cases hp : s.phase = .write
  · exact stepWrite_wf h (by simpa only [stepBlock, hp] using hst)
  · exact stepBlock_mem hst hp ▸ h

/-- Settles O31: WRITE, a host store and the clean of a dirty byte are the steps that change memory, each at addresses of 32 bits. -/
theorem memoryStaysCanonical : Obligations.MemoryStaysCanonical := by
  intro s t h hst
  rcases step_cases hst with ⟨_, hb⟩ | ⟨rest, hcase⟩
  · exact stepBlock_wf h hb
  rcases hcase with ⟨_, hb⟩ | ⟨_, _, _, _, hx⟩ | ⟨_, rfl⟩ | ⟨a, b, _, rfl⟩ | ⟨a, _, rfl⟩ | ⟨a, _, rfl⟩ | ⟨_, _, rfl⟩
  · exact stepBlock_wf (s := { s with inputs := rest }) h hb
  · exact exec_mem hx ▸ h
  · exact h
  · exact storeEffect_wf a b (s := { s with inputs := rest }) h
  · obtain ⟨_, _, _, hmem⟩ := loadEffect_block a.toNat { s with inputs := rest }
    exact (congrArg Memory.wf hmem).trans h
  · exact cleanEffect_wf a (s := { s with inputs := rest }) h
  · exact h

end Sys2Proof.Machine
end

section
/-! The result the rate controller keeps (45_rate_control.md R405, R408, R410). -/

namespace Sys2Proof.Machine

/-- The result of one pass over source planes at an index (R405, R410). -/
def passResult (c : EncConfig) (src : SourcePlanes) (q : QIndex) : PassResult :=
  let coded := codeFrame c.mbw q (analyseFrame c q src).2
  let payload := payloadOf coded.e1.out coded.e2.out c.w c.h
  { file := webpFile payload, size := (webpFile payload).length, q := q, payloadLen := payload.length }

/-- A pass reads the snapshot, the source planes and the index, and nothing else of the session (R410). -/
theorem runPass_result (ses : Session) : (runPass ses).result = passResult ses.cfg ses.source ses.q := rfl

/-- The invariant of a kept result, without the session it stands in. -/
theorem bestInv_iff (s : State) :
    BestInv s ↔ (s.phase = .pass ∨ s.phase = .write →
      ∀ b, s.session.best = some b → b = passResult s.session.cfg s.session.source b.q) := Iff.rfl

/-- The invariant reads the phase and the session alone. -/
theorem BestInv.of_sameSession {s t : State} (h : BestInv s) (hp : t.phase = s.phase) (hs : t.session = s.session) : BestInv t := by
  simpa only [BestInv, hp, hs] using h

/-- Outside PASS and WRITE nothing is claimed. -/
theorem BestInv.of_phase {s : State} (h : s.phase = .idle ∨ s.phase = .check ∨ s.phase = .convert) : BestInv s := by
  rcases h with h | h | h <;> simp [BestInv, h]

/-- The closest result is the new one, a single pass at the session's index, or the old one (R408). -/
theorem BestInv.stepPass {s t : State} (h : BestInv s) (hp : s.phase = .pass) (hst : stepPass s = .next t) : BestInv t := by
  rcases stepPass_cases hst with ⟨_, rfl⟩ | ⟨_, rfl⟩
  · exact .of_phase (.inl rfl)
  · obtain ⟨hcfg, hy, hu, hv, _, hbest⟩ := rateStep_keeps (runPass s.session) (runPass s.session).result
    have hsrc : (rateStep (runPass s.session) (runPass s.session).result).1.source = s.session.source := by
      rw [Session.source, hy, hu, hv]
      rfl
    refine (bestInv_iff _).mpr fun _ b hb => ?_
    obtain rfl := Option.some.inj (hbest.symm.trans hb)
    rw [hcfg, hsrc]
    rcases closest_cases (runPass s.session).mode (runPass s.session).cfg.target.toNat (runPass s.session).best
      (runPass s.session).result with hnew | hold
    · rw [hnew]
      exact runPass_result s.session
    · exact (bestInv_iff s).mp h (.inl hp) _ hold

theorem BestInv.stepBlock {s t : State} (h : BestInv s) (hst : stepBlock s = .next t) : BestInv t := by
  rcases stepBlock_cases hst with ⟨_, rfl⟩ | ⟨_, hst⟩ | ⟨_, hst⟩ | ⟨hp, hst⟩ | ⟨_, hst⟩
  · exact h
  · rcases stepCheck_cases hst with ⟨_, _, rfl⟩ | ⟨_, _, rfl⟩
    · exact .of_phase (.inl rfl)
    · exact .of_phase (.inr (.inr rfl))
  · rcases stepConvert_cases hst with ⟨_, rfl⟩ | ⟨_, rfl⟩
    · simp [BestInv]
    · exact h
  · exact h.stepPass hp hst
  · obtain ⟨_, _, ⟨_, rfl⟩ | ⟨_, rfl | rfl⟩⟩ := stepWrite_cases hst
    · exact .of_phase (.inl rfl)
    · exact .of_phase (.inl rfl)
    · exact h

/-- No instruction changes the kept result, and an acceptance leads to CHECK. -/
theorem BestInv.exec {s t : State} (h : BestInv s) {i : Instr} (hx : exec i s = .next t) : BestInv t := by
  rcases exec_cases hx with rfl | rfl | rfl | rfl | ⟨_, _, rfl⟩ | ⟨_, rfl⟩ | ⟨_, _, rfl⟩
  · exact h
  · exact h
  · exact h
  · exact h
  · exact .of_phase (.inr (.inl rfl))
  · exact h
  · exact h

/-- Settles O34: a pass keeps its own result or the one before, CONVERT starts with none, and no other step changes the kept result within
PASS and WRITE. -/
theorem bestIsASinglePass : Obligations.BestIsASinglePass := by
  intro s t h hst
  rcases step_cases hst with ⟨_, hb⟩ | ⟨rest, hcase⟩
  · exact h.stepBlock hb
  have h' : BestInv { s with inputs := rest } := h
  rcases hcase with ⟨_, hb⟩ | ⟨_, _, _, _, hx⟩ | ⟨_, rfl⟩ | ⟨a, b, _, rfl⟩ | ⟨a, _, rfl⟩ | ⟨a, _, rfl⟩ | ⟨_, _, rfl⟩
  · exact h'.stepBlock hb
  · exact h'.exec hx
  · exact .of_phase (.inl rfl)
  · obtain ⟨_, hp, hs⟩ := storeEffect_block a.toNat b { s with inputs := rest }
    exact h'.of_sameSession hp hs
  · obtain ⟨_, hp, hs, _⟩ := loadEffect_block a.toNat { s with inputs := rest }
    exact h'.of_sameSession hp hs
  · obtain ⟨_, hp, hs⟩ := cleanEffect_block a.toNat { s with inputs := rest }
    exact h'.of_sameSession hp hs
  · exact h'

end Sys2Proof.Machine
end

section
/-! The boolean encoder against one over an unbounded integer (44_entropy_coder.md R340 to R344; log 13). -/

namespace Sys2Proof.Machine

/-! Byte strings as numbers. -/

@[simp] theorem beValue_append_singleton (bs : List Byte) (b : Byte) : beValue (bs ++ [b]) = beValue bs * 256 + b.toNat := by
  simp [beValue]

/-- The four bytes of a number below 2^32 put after others (R344). -/
theorem beValue_append_word (bs : List Byte) {v : Nat} (hv : v < 2 ^ 32) :
    beValue (bs ++ [BitVec.ofNat 8 (v / 2 ^ 24), BitVec.ofNat 8 (v / 2 ^ 16), BitVec.ofNat 8 (v / 2 ^ 8), BitVec.ofNat 8 v]) =
      beValue bs * 2 ^ 32 + v := by
  simp only [beValue, List.foldl_append, List.foldl_cons, List.foldl_nil, BitVec.toNat_ofNat]
  omega

/-- A carry into bytes that are not all 0xFF adds 1 (R342). -/
theorem beValue_addOneRev {bs : List Byte} (h : beValue bs.reverse + 1 < 256 ^ bs.length) :
    beValue (addOneRev bs).reverse = beValue bs.reverse + 1 := by
  induction bs with
  | nil => simp at h
  | cons b bs ih =>
    rw [List.reverse_cons, beValue_append_singleton, List.length_cons, pow_succ] at h
    rw [List.reverse_cons, beValue_append_singleton, addOneRev]
    split
    next hb =>
      subst hb
      have hlast : (0xFF#8).toNat = 255 := rfl
      rw [hlast] at h ⊢
      rw [List.reverse_cons, beValue_append_singleton, ih (by omega)]
      have hzero : (0x00#8).toNat = 0 := rfl
      omega
    next hb =>
      have hsucc : (b + 1#8).toNat = b.toNat + 1 := by bv_omega
      rw [List.reverse_cons, beValue_append_singleton, hsucc, Nat.add_assoc]

theorem beValue_addOne {out : List Byte} (h : beValue out + 1 < 256 ^ out.length) : beValue (addOne out) = beValue out + 1 := by
  have hrev := beValue_addOneRev (bs := out.reverse) (by simpa using h)
  rwa [List.reverse_reverse] at hrev

/-- The bytes after the pending carry, if there is one (R341, R344). -/
def carried (carry : Bool) (out : List Byte) : List Byte := if carry then addOne out else out

@[simp] theorem carried_length (carry : Bool) (out : List Byte) : (carried carry out).length = out.length := by
  cases carry <;> simp [carried]

theorem beValue_carried {carry : Bool} {out : List Byte} (h : carry = true → beValue out + 1 < 256 ^ out.length) :
    beValue (carried carry out) = beValue out + carry.toNat := by
  cases carry with
  | false => rfl
  | true => exact beValue_addOne (h rfl)

/-! The exact coder's turns. -/

/-- One turn of the exact coder's loop. -/
def ExactCoder.shiftOnce (x : ExactCoder) : ExactCoder := { low := x.low * 2, range := x.range * 2, shifts := x.shifts + 1 }

/-- The part of the exact coder's range that a boolean chooses (R341). -/
def ExactCoder.split (x : ExactCoder) (p : Nat) (bit : Bool) : ExactCoder :=
  if bit then { x with low := x.low + splitOf x.range p, range := x.range - splitOf x.range p } else { x with range := splitOf x.range p }

theorem ExactCoder.normalise_succ (n : Nat) (x : ExactCoder) :
    x.normalise (n + 1) = if x.range < 128 then x.shiftOnce.normalise n else x := rfl

theorem ExactCoder.put_eq (x : ExactCoder) (p : Nat) (bit : Bool) : x.put p bit = (x.split p bit).normalise 7 := rfl

/-! The relation of the two coders. -/

/-- The exact coder's lower end is the bytes moved out with the `32 - bit_count` bits of `bottom` behind them and one bit of carry above those;
the interval ends before the carry bit's next place, and below `255 * 2 ^ shifts`. -/
structure Tracks (e : BoolEnc) (x : ExactCoder) : Prop where
  range : e.range = x.range
  low : x.low = beValue e.out * 2 ^ (32 - e.bitCount) + e.bottom.toNat
  bits : x.shifts + 8 = 8 * e.out.length + (32 - e.bitCount)
  count : 1 ≤ e.bitCount ∧ e.bitCount ≤ 24
  window : e.bottom.toNat + e.range ≤ 2 * 2 ^ (32 - e.bitCount)
  small : x.low + x.range ≤ 255 * 2 ^ x.shifts
  byte : 1 ≤ e.range ∧ e.range ≤ 255

theorem Tracks.init : Tracks BoolEnc.init ExactCoder.init := by
  constructor <;> decide

/-- A pending carry never runs past the first byte (R342). -/
theorem Tracks.carry_fits {e : BoolEnc} {x : ExactCoder} (h : Tracks e x) (hc : 2 ^ (32 - e.bitCount) ≤ e.bottom.toNat) :
    beValue e.out + 1 < 256 ^ e.out.length := by
  have hpos : 0 < 2 ^ (32 - e.bitCount) := Nat.two_pow_pos _
  have htop : x.low + x.range < 256 ^ e.out.length * 2 ^ (32 - e.bitCount) := by
    calc x.low + x.range ≤ 255 * 2 ^ x.shifts := h.small
      _ < 2 ^ 8 * 2 ^ x.shifts := Nat.mul_lt_mul_of_pos_right (by decide) (Nat.two_pow_pos _)
      _ = 2 ^ (x.shifts + 8) := by rw [pow_add, Nat.mul_comm]
      _ = 256 ^ e.out.length * 2 ^ (32 - e.bitCount) := by rw [h.bits, pow_add, pow_mul]; rfl
  refine Nat.lt_of_mul_lt_mul_right (a := 2 ^ (32 - e.bitCount)) (lt_of_le_of_lt ?_ htop)
  rw [Nat.add_mul, h.low]
  omega

/-- The bytes after the pending carry (R342). -/
theorem Tracks.beValue_carried {e : BoolEnc} {x : ExactCoder} (h : Tracks e x) :
    beValue (carried (e.bottom.getLsbD (32 - e.bitCount)) e.out) = beValue e.out + (e.bottom.getLsbD (32 - e.bitCount)).toNat :=
  Machine.beValue_carried fun hbit => h.carry_fits (Nat.ge_two_pow_of_testBit hbit)

/-- The carry bit is the highest one that `bottom` uses. -/
theorem Tracks.bottom_lt {e : BoolEnc} {x : ExactCoder} (h : Tracks e x) : e.bottom.toNat < 2 * 2 ^ (32 - e.bitCount) := by
  have := h.window
  have := h.byte
  omega

/-- The window of `bottom` is at most the whole of its 32 bits. -/
theorem two_mul_two_pow_le {c : Nat} (h : 1 ≤ c) : 2 * 2 ^ (32 - c) ≤ 2 ^ 32 := by
  rw [← pow_succ']
  exact Nat.pow_le_pow_right (by decide) (by omega)

/-- Choosing a part of the range keeps the relation: the interval only shrinks (R341). -/
theorem Tracks.split {e : BoolEnc} {x : ExactCoder} (h : Tracks e x) (hr : 2 ≤ e.range) {p : Nat} (hp : p ≤ 255) (bit : Bool) :
    Tracks (splitEnc e p bit) (x.split p bit) := by
  obtain ⟨hrange, hlow, hbits, hcount, hwindow, hsmall, hbyte⟩ := h
  obtain ⟨hpos, hlt⟩ := splitOf_bounds hr hp
  cases bit with
  | false =>
    have hsmall' : x.low + splitOf x.range p ≤ 255 * 2 ^ x.shifts := by rw [← hrange]; omega
    exact ⟨congrArg (splitOf · p) hrange, hlow, hbits, hcount, (Nat.add_le_add_left hlt.le _).trans hwindow, hsmall',
      hpos, hlt.le.trans hbyte.2⟩
  | true =>
    have hbottom : (e.bottom + BitVec.ofNat 32 (splitOf e.range p)).toNat = e.bottom.toNat + splitOf e.range p := by
      have := two_mul_two_pow_le hcount.1
      rw [BitVec.toNat_add, BitVec.toNat_ofNat, Nat.add_mod_mod, Nat.mod_eq_of_lt (by omega)]
    have hlow' : x.low + splitOf x.range p =
        beValue e.out * 2 ^ (32 - e.bitCount) + (e.bottom + BitVec.ofNat 32 (splitOf e.range p)).toNat := by
      rw [hbottom, hlow, hrange, Nat.add_assoc]
    have hwindow' : (e.bottom + BitVec.ofNat 32 (splitOf e.range p)).toNat + (e.range - splitOf e.range p) ≤
        2 * 2 ^ (32 - e.bitCount) := by
      rw [hbottom]; omega
    have hsmall' : x.low + splitOf x.range p + (x.range - splitOf x.range p) ≤ 255 * 2 ^ x.shifts := by
      rw [← hrange] at hsmall ⊢; omega
    exact ⟨congrArg (fun r => r - splitOf r p) hrange, hlow', hbits, hcount, hwindow', hsmall',
      Nat.sub_pos_of_lt hlt, (Nat.sub_le _ _).trans hbyte.2⟩

/-! A turn of the loop. -/

/-- While more than one bit is still to come before a byte is full, a turn only doubles (R341). -/
theorem shiftOnce_of_more {e : BoolEnc} (hc : 2 ≤ e.bitCount) (hb : e.bottom.toNat < 2 ^ 31) :
    shiftOnce e = { e with range := e.range * 2, bottom := e.bottom <<< 1, bitCount := e.bitCount - 1 } := by
  have hcarry : e.bottom.getLsbD 31 = false := Nat.testBit_lt_two_pow hb
  have hne : e.bitCount - 1 ≠ 0 := by omega
  simp only [shiftOnce, hcarry, Bool.false_eq_true, if_false, if_neg hne]

/-- The turn that fills a byte takes the carry from bit 31 and moves the next eight bits out (R341). -/
theorem shiftOnce_of_last {e : BoolEnc} (hc : e.bitCount = 1) :
    shiftOnce e =
      { out := carried (e.bottom.getLsbD 31) e.out ++ [BitVec.ofNat 8 ((e.bottom <<< 1).toNat / 2 ^ 24)]
        range := e.range * 2
        bottom := (e.bottom <<< 1) &&& 0x00FFFFFF#32
        bitCount := 8 } := by
  simp only [shiftOnce, hc, Nat.sub_self, if_true, carried]

/-- The low 24 bits of a word. -/
theorem toNat_and_low24 (w : Word) : (w &&& 0x00FFFFFF#32).toNat = w.toNat % 2 ^ 24 := by
  have hmask : (0x00FFFFFF#32).toNat = 2 ^ 24 - 1 := rfl
  rw [BitVec.toNat_and, hmask, Nat.and_two_pow_sub_one_eq_mod]

/-- Shifting a word with one bit of carry above its low `32 - c` bits drops the carry and keeps the rest. -/
theorem toNat_shiftLeft_add_carry {w : Word} {c : Nat} (hc : c ≤ 32) (hw : w.toNat < 2 * 2 ^ (32 - c)) :
    (w <<< c).toNat + (w.getLsbD (32 - c)).toNat * 2 ^ 32 = w.toNat * 2 ^ c := by
  have hpow : 2 ^ 32 = 2 ^ (32 - c) * 2 ^ c := by rw [← pow_add, Nat.sub_add_cancel hc]
  have hbit : (w.getLsbD (32 - c)).toNat = w.toNat / 2 ^ (32 - c) := by
    have hlt : w.toNat / 2 ^ (32 - c) < 2 := Nat.div_lt_of_lt_mul (by rwa [Nat.mul_comm])
    rw [BitVec.getLsbD, Nat.toNat_testBit, Nat.mod_eq_of_lt hlt]
  rw [hbit, BitVec.toNat_shiftLeft, Nat.shiftLeft_eq, hpow, Nat.mul_mod_mul_right, ← Nat.mul_assoc, ← Nat.add_mul, Nat.mod_add_div']

/-- What a turn does to the range and to the interval's ends is the same whether it fills a byte or not. -/
theorem Tracks.of_doubled {e e' : BoolEnc} {x : ExactCoder} (h : Tracks e x) (hlt : e.range < 128) (hrange : e'.range = e.range * 2)
    (hlow : x.low * 2 = beValue e'.out * 2 ^ (32 - e'.bitCount) + e'.bottom.toNat)
    (hbits : x.shifts + 1 + 8 = 8 * e'.out.length + (32 - e'.bitCount)) (hcount : 1 ≤ e'.bitCount ∧ e'.bitCount ≤ 24)
    (hwindow : e'.bottom.toNat + e'.range ≤ 2 * 2 ^ (32 - e'.bitCount)) : Tracks e' x.shiftOnce := by
  have hsmall : x.low * 2 + x.range * 2 ≤ 255 * 2 ^ (x.shifts + 1) := by
    have := h.small
    rw [pow_succ]; omega
  have hbyte := h.byte
  exact ⟨hrange.trans (congrArg (· * 2) h.range), hlow, hbits, hcount, hwindow, hsmall, by omega⟩

/-- A turn that fills no byte keeps the relation: every bit moves up by one place. -/
theorem Tracks.shiftOnce_of_more {e : BoolEnc} {x : ExactCoder} (h : Tracks e x) (hlt : e.range < 128) (hc : 2 ≤ e.bitCount) :
    Tracks (shiftOnce e) x.shiftOnce := by
  have hcount := h.count
  have hplace : 2 ^ (32 - (e.bitCount - 1)) = 2 ^ (32 - e.bitCount) * 2 := by
    rw [← pow_succ]
    congr 1; omega
  have hbottom31 : e.bottom.toNat < 2 ^ 31 := by
    refine h.bottom_lt.trans_le ?_
    rw [← pow_succ']
    exact Nat.pow_le_pow_right (by decide) (by omega)
  have hbottom : (e.bottom <<< 1).toNat = e.bottom.toNat * 2 := by
    rw [BitVec.toNat_shiftLeft, Nat.shiftLeft_eq]; omega
  have hbits := h.bits
  have hwindow := h.window
  rw [Machine.shiftOnce_of_more hc hbottom31]
  refine h.of_doubled hlt rfl ?_ ?_ ?_ ?_
  · rw [h.low, hplace, hbottom, ← Nat.mul_assoc, Nat.add_mul]
  · dsimp only; omega
  · dsimp only; omega
  · rw [hplace, hbottom]; dsimp only; omega

/-- The turn that fills a byte keeps the relation: the carry and the eight highest bits of `bottom` move to the bytes. -/
theorem Tracks.shiftOnce_of_last {e : BoolEnc} {x : ExactCoder} (h : Tracks e x) (hlt : e.range < 128) (hc : e.bitCount = 1) :
    Tracks (shiftOnce e) x.shiftOnce := by
  have hlow := h.low
  have hbits := h.bits
  have hcarry := h.beValue_carried
  have hshift := toNat_shiftLeft_add_carry (by omega) h.bottom_lt
  have hword := (e.bottom <<< 1).isLt
  rw [hc] at hlow hbits hcarry hshift
  rw [Machine.shiftOnce_of_last hc]
  refine h.of_doubled hlt rfl ?_ ?_ (by simp) ?_
  · rw [beValue_append_singleton, hcarry, toNat_and_low24, BitVec.toNat_ofNat]
    dsimp only
    omega
  · rw [List.length_append, carried_length, List.length_singleton]
    dsimp only
    omega
  · rw [toNat_and_low24]
    dsimp only
    omega

/-- A turn of the loop keeps the relation (R341). -/
theorem Tracks.shiftOnce {e : BoolEnc} {x : ExactCoder} (h : Tracks e x) (hlt : e.range < 128) : Tracks (shiftOnce e) x.shiftOnce := by
  obtain ⟨hc, _⟩ := h.count
  rcases hc.eq_or_lt with hlast | hmore
  · exact h.shiftOnce_of_last hlt hlast.symm
  · exact h.shiftOnce_of_more hlt hmore

/-- The two loops take the same turns (R341). -/
theorem Tracks.normalise {e : BoolEnc} {x : ExactCoder} (h : Tracks e x) (n : Nat) : Tracks (normalise n e) (x.normalise n) := by
  induction n generalizing e x with
  | zero => exact h
  | succ n ih =>
    rw [ExactCoder.normalise_succ, Machine.normalise, ← h.range]
    split
    next hlt => exact ih (h.shiftOnce hlt)
    next => exact h

/-- Putting a boolean keeps the relation and the range of 128 or more (R341). -/
theorem Tracks.put {e : BoolEnc} {x : ExactCoder} (h : Tracks e x) (hr : 128 ≤ e.range) {p : Nat} (hp : p ≤ 255) (bit : Bool) :
    Tracks (putBool e p bit) (x.put p bit) ∧ 128 ≤ (putBool e p bit).range := by
  have hsplit := h.split (by omega) hp bit
  rw [putBool_eq, ExactCoder.put_eq]
  exact ⟨hsplit.normalise 7, (normalise_range (n := 7) (by have := hsplit.byte; omega) hsplit.byte.2).1⟩

theorem Tracks.putAll {e : BoolEnc} {x : ExactCoder} (h : Tracks e x) (hr : 128 ≤ e.range) {bs : List (Nat × Bool)} (hbs : LegalBools bs) :
    Tracks (putAll e bs) (x.putAll bs) := by
  induction bs generalizing e x with
  | nil => exact h
  | cons b bs ih =>
    obtain ⟨⟨_, hp⟩, hrest⟩ := List.forall_mem_cons.mp hbs
    obtain ⟨hput, hr'⟩ := h.put hr hp b.2
    exact ih hput hr' hrest

/-! The flush. -/

theorem flushBytes_eq (e : BoolEnc) :
    flushBytes e = carried (e.bottom.getLsbD (32 - e.bitCount)) e.out ++
      [BitVec.ofNat 8 ((e.bottom <<< e.bitCount).toNat / 2 ^ 24), BitVec.ofNat 8 ((e.bottom <<< e.bitCount).toNat / 2 ^ 16),
       BitVec.ofNat 8 ((e.bottom <<< e.bitCount).toNat / 2 ^ 8), BitVec.ofNat 8 (e.bottom <<< e.bitCount).toNat] := rfl

/-- The flushed bytes are the lower end, moved up to whole bytes (R344). -/
theorem Tracks.flush {e : BoolEnc} {x : ExactCoder} (h : Tracks e x) : beValue (flushBytes e) = x.low * 2 ^ e.bitCount := by
  have hcount := h.count.2.trans (by decide : 24 ≤ 32)
  have hpow : 2 ^ 32 = 2 ^ (32 - e.bitCount) * 2 ^ e.bitCount := by rw [← pow_add, Nat.sub_add_cancel hcount]
  have hshift := toNat_shiftLeft_add_carry hcount h.bottom_lt
  calc beValue (flushBytes e)
      = (beValue e.out + (e.bottom.getLsbD (32 - e.bitCount)).toNat) * 2 ^ 32 + (e.bottom <<< e.bitCount).toNat := by
        rw [flushBytes_eq, beValue_append_word _ (BitVec.isLt _), h.beValue_carried]
    _ = beValue e.out * 2 ^ 32 + ((e.bottom <<< e.bitCount).toNat + (e.bottom.getLsbD (32 - e.bitCount)).toNat * 2 ^ 32) := by omega
    _ = beValue e.out * (2 ^ (32 - e.bitCount) * 2 ^ e.bitCount) + e.bottom.toNat * 2 ^ e.bitCount := by rw [hshift, hpow]
    _ = x.low * 2 ^ e.bitCount := by rw [h.low, Nat.add_mul, Nat.mul_assoc]

/-- Settles O48: the relation holds at the start, each boolean keeps it, and the flush reads it off. -/
theorem boolCoderIsExact : Obligations.BoolCoderIsExact := by
  intro bs hbs e x
  have h : Tracks e x := Tracks.init.putAll (by decide) hbs
  refine ⟨h.range, h.flush, ?_, h.small⟩
  have hbits := h.bits
  have hcount := h.count
  rw [flushBytes_length]
  omega

end Sys2Proof.Machine
end

section
/-! The reset input and register writes while an encode runs (60_exceptions.md R480; 70_reset_and_hazards.md R510, R512, R523). -/

namespace Sys2Proof.Machine

/-- Settles O2: every register reads as at reset, since the register file is that of reset, and nothing outside the block moves. -/
theorem resetInput : Obligations.ResetInput :=
  fun _ _ hin => ⟨_, step_reset hin, fun _ => rfl, rfl, resetBlock_irq _, rfl, rfl, rfl, rfl, rfl, rfl⟩

/-! A register write and the block's next transition (R523). -/

/-- A state with one register written by the host. -/
def withReg (r : RegName) (d : Word) (s : State) : State := { s with regs := writeReg r d s.regs }

@[simp] theorem withReg_phase (r : RegName) (d : Word) (s : State) : (withReg r d s).phase = s.phase := rfl
@[simp] theorem withReg_session (r : RegName) (d : Word) (s : State) : (withReg r d s).session = s.session := rfl
@[simp] theorem withReg_platform (r : RegName) (d : Word) (s : State) : (withReg r d s).platform = s.platform := rfl

theorem exec_wr_withReg {r : RegName} (hr : r ≠ .cmd) (d : Word) (s : State) :
    exec (.wr (offsetOf r) d) s = .next (withReg r d s) := exec_wr_reg hr d s

/-- Error entry writes no register that the host writes (R470). -/
theorem raiseError_withReg (r : RegName) (d : Word) (code : ErrorCode) (s : State) :
    raiseError code (withReg r d s) = withReg r d (raiseError code s) := by
  cases r <;> rfl

/-- Completion writes no register that the host writes (R197). -/
theorem complete_withReg (r : RegName) (d : Word) (best : PassResult) (s : State) :
    complete best (withReg r d s) = withReg r d (complete best s) := by
  cases r <;> rfl

theorem stepCheck_withReg (r : RegName) (d : Word) (s : State) : stepCheck (withReg r d s) = mapNext (withReg r d) (stepCheck s) := by
  simp only [stepCheck, withReg_session, withReg_platform]
  cases checkConfig s.session.cfg with
  | some code => exact congrArg _ (raiseError_withReg r d code s)
  | none => cases unsupportedRegion s.platform s.session.cfg <;> rfl

theorem stepConvert_withReg (r : RegName) (d : Word) (s : State) :
    stepConvert (withReg r d s) = mapNext (withReg r d) (stepConvert s) := by
  rw [stepConvert, stepConvert, apply_ite (mapNext (withReg r d))]
  rfl

theorem stepPass_withReg (r : RegName) (d : Word) (s : State) : stepPass (withReg r d s) = mapNext (withReg r d) (stepPass s) := by
  simp only [stepPass, apply_ite (mapNext (withReg r d))]
  exact if_congr Iff.rfl (congrArg _ (raiseError_withReg r d _ s)) rfl

/-- A state whose memory holds a file's bytes as WRITE stores them (46_container.md R440). -/
def storeFile (best : PassResult) (s : State) : State :=
  { s with mem := writeCells s.mem (writtenCells s best.file), freeCount := s.freeCount + 1 }

theorem stepWrite_withReg (r : RegName) (d : Word) (s : State) : stepWrite (withReg r d s) = mapNext (withReg r d) (stepWrite s) := by
  simp only [stepWrite, withReg_session]
  cases s.session.best with
  | none => rfl
  | some best =>
    simp only [apply_ite (mapNext (withReg r d))]
    exact if_congr Iff.rfl (congrArg _ (raiseError_withReg r d _ s))
      (if_congr Iff.rfl (congrArg _ (complete_withReg r d best (storeFile best s))) rfl)

/-- A register write commutes with the block's next transition, whatever the phase (R523). -/
theorem stepBlock_withReg (r : RegName) (d : Word) (s : State) : stepBlock (withReg r d s) = mapNext (withReg r d) (stepBlock s) := by
  simp only [stepBlock, withReg_phase]
  cases s.phase with
  | idle => rfl
  | check => exact stepCheck_withReg r d s
  | convert => exact stepConvert_withReg r d s
  | pass => exact stepPass_withReg r d s
  | write => exact stepWrite_withReg r d s

/-- What a writable register reads after a write: the data, of CTRL bit 0 alone (R44, R184). -/
theorem readReg_writeReg {r : RegName} (hr : r ∈ writableRegs) (d : Word) (g : Regs) :
    readReg r (writeReg r d g) = if offsetOf r = 0x04 then d &&& 1 else d := by
  simp only [writableRegs, List.mem_cons, List.not_mem_nil, or_false] at hr
  rcases hr with rfl | hr
  · exact ctrlStored_eq_and_one d
  · have hother : offsetOf r ≠ 0x04 := by rcases hr with rfl | rfl | rfl | rfl | rfl | rfl | rfl | rfl | rfl | rfl | rfl <;> decide
    rw [if_neg hother]
    rcases hr with rfl | rfl | rfl | rfl | rfl | rfl | rfl | rfl | rfl | rfl | rfl <;> rfl

/-- A write of CTRL shows on the interrupt output at once (R480). -/
theorem withReg_ctrl_irq (d : Word) (s : State) : (withReg .ctrl d s).irq = (d.getLsbD 0 && (s.done || s.err)) := by
  have hen : (ctrlStored d).getLsbD irqEnBit = d.getLsbD irqEnBit := by simp
  simp only [State.irq, State.irqEn]
  exact congrArg (· && (s.done || s.err)) hen

/-- CTRL is the register at offset 0x04 (R141). -/
theorem eq_ctrl_of_offsetOf {r : RegName} (h : offsetOf r = 0x04) : r = .ctrl :=
  Option.some.inj ((regAt_offsetOf r).symm.trans (congrArg regAt h))

/-- Settles O30: the twelve offsets are those of the writable registers, and a write to one commutes with each transition. -/
theorem runningEncodeKeepsItsSnapshot : Obligations.RunningEncodeKeepsItsSnapshot := by
  intro s o d ho
  obtain ⟨r, hr, rfl⟩ : ∃ r ∈ writableRegs, offsetOf r = o := List.mem_map.mp ho
  have hcmd : r ≠ .cmd := by
    rintro rfl
    exact absurd hr (by decide)
  obtain ⟨hstatus, _⟩ := writeReg_readOnly r d s.regs
  refine ⟨withReg r d s, exec_wr_withReg hcmd d s, rfl, rfl, hstatus, ?_, fun h => ?_, fun u hu => ?_⟩
  · rw [exec_rd_reg, ← readReg_writeReg hr d s.regs]
    rfl
  · obtain rfl := eq_ctrl_of_offsetOf h
    exact withReg_ctrl_irq d s
  · rw [stepBlock_withReg, hu, exec_wr_withReg hcmd]
    rfl

end Sys2Proof.Machine
end

section
/-! Raced source reads, and host stores and loads at a coherent port (20_memory.md R117; 70_reset_and_hazards.md R520, R521; logs 10, 11). -/

namespace Sys2Proof.Machine

/-- An index reduced to the length of a list gives an entry of it, whatever the lookup's default. -/
theorem getD_mod_length_mem {α : Type} (v : α) (vs : List α) (i : Nat) (d : α) : (v :: vs).getD (i % (vs.length + 1)) d ∈ v :: vs := by
  have hlt : i % (vs.length + 1) < (v :: vs).length := Nat.mod_lt i (Nat.succ_pos vs.length)
  rw [List.getD_eq_getElem _ _ hlt]
  exact List.getElem_mem hlt

/-- A source read gives the byte in memory or a value it held since acceptance (R520). -/
theorem sourceByte_mem_heldValues (s : State) (a : Word) : sourceByte s a ∈ heldValues s a.toNat := by
  rw [sourceByte, heldValues]
  cases raceValues s a.toNat with
  | nil => exact List.mem_cons_self
  | cons v vs => exact getD_mod_length_mem _ _ _ _

/-- With no value of the byte replaced since acceptance, a source read gives the byte in memory (R520). -/
theorem sourceByte_of_not_raced {s : State} {a : Word} (h : raceValues s a.toNat = []) : sourceByte s a = readByte s.mem a.toNat := by
  unfold sourceByte
  rw [h]

section OnOrdinaryMemory
variable {s : State} {a : Word} {b : Byte} {rest : List Input}
variable (hw : inRegisterWindow s.platform a = false) (hr : regionKind s.platform a = .ram) (hc : s.platform.dmaCoherent = true)
include hw hr hc

/-- Where the port is coherent the block sees a store at once (R115). -/
theorem step_hostStore_coherent (hin : s.inputs = .hostStore a b :: rest) :
    step s = .next (portStore a.toNat b { s with inputs := rest }) := by
  rw [step_hostStore hin, onRam_ram (s := { s with inputs := rest }) _ hw hr, storeEffect, if_pos hc]

/-- Where the port is coherent a load gives the byte at the port (R116). -/
theorem step_hostLoad_coherent (hin : s.inputs = .hostLoad a :: rest) :
    step s = .next { s with inputs := rest, hostByte := portByte s a.toNat, freeCount := s.freeCount + 1 } := by
  rw [step_hostLoad hin, onRam_ram (s := { s with inputs := rest }) _ hw hr, loadEffect, if_pos hc]
  rfl

end OnOrdinaryMemory

/-- Settles O59: a source read looks up the record of the byte's values, a store is a store at the port, and a load gives a byte that may be seen
there. -/
theorem racedReadIsAHeldValue : Obligations.RacedReadIsAHeldValue := by
  refine ⟨fun s a => ⟨sourceByte_mem_heldValues s a, sourceByte_of_not_raced⟩, ?storeBeforePass, ?store, ?load⟩
  case storeBeforePass =>
    intro s a b rest hin hcoh hwf hp hw hr
    obtain ⟨_, hheld, _⟩ := portStore_storedAtPort a.toNat b (s := { s with inputs := rest }) hwf
    exact ⟨_, step_hostStore_coherent hw hr hcoh hin, portStore_inputs _ _ _, portStore_session _ _ _, portStore_phase _ _ _,
      portStore_regs _ _ _, portStore_platform _ _ _, portStore_hostCache _ _ _, portStore_busData _ _ _, portStore_hostByte _ _ _,
      portStore_freeCount _ _ _, hheld hp⟩
  case store =>
    intro s a b rest hin hcoh hwf hw hr
    obtain ⟨hmem, _, hsrc, hdst⟩ := portStore_storedAtPort a.toNat b (s := { s with inputs := rest }) hwf
    exact ⟨_, step_hostStore_coherent hw hr hcoh hin, portStore_inputs _ _ _, portStore_session _ _ _, portStore_phase _ _ _,
      portStore_regs _ _ _, portStore_platform _ _ _, portStore_hostCache _ _ _, portStore_busData _ _ _, portStore_hostByte _ _ _,
      portStore_freeCount _ _ _, hmem, hsrc, hdst⟩
  case load =>
    intro s a rest hin hcoh hw hr
    exact ⟨_, step_hostLoad_coherent hw hr hcoh hin, rfl, rfl, rfl, rfl, rfl, rfl, rfl, rfl, rfl, rfl, portByte_seenAtPort s a⟩

end Sys2Proof.Machine
end

section
/-! The colour formulas inside the range of a byte (41_color_transform.md R223, R224). -/

namespace Sys2Proof.Machine

/-- The clip leaves 0..255 alone (R13). -/
theorem clip255_toNat {v : Int} (h0 : 0 ≤ v) (h255 : v ≤ 255) : ((clip255 v).toNat : Int) = v := by
  have hclamp : clamp 0 255 v = v := by unfold clamp; omega
  rw [clip255, hclamp, BitVec.toNat_ofNat]
  omega

/-- Settles O35: the weights of the formula add up to less than 220 * 2^16, so its value is that of the clip. -/
theorem lumaIsInRange : Obligations.LumaIsInRange := by
  refine ⟨fun p => ?_, by decide, by decide⟩
  intro v
  have hr := p.r.isLt
  have hg := p.g.isLt
  have hb := p.b.isLt
  have hrange : 16 ≤ v ∧ v ≤ 235 := by omega
  exact ⟨clip255_toNat (v := v) (by omega) (by omega), hrange⟩

/-- The weights of a group are those of the sums of its samples (R224). -/
theorem uConv4_eq (a b c d : Rgb) :
    uConv4 [a, b, c, d] = chromaRound
      (-9719 * (a.r.toNat + b.r.toNat + c.r.toNat + d.r.toNat) - 19081 * (a.g.toNat + b.g.toNat + c.g.toNat + d.g.toNat) +
        28800 * (a.b.toNat + b.b.toNat + c.b.toNat + d.b.toNat)) := by
  simp only [uConv4, List.map_cons, List.map_nil, List.sum_cons, List.sum_nil, uWeight, sampleInt]
  congr 1; ring

theorem vConv4_eq (a b c d : Rgb) :
    vConv4 [a, b, c, d] = chromaRound
      (28800 * (a.r.toNat + b.r.toNat + c.r.toNat + d.r.toNat) - 24116 * (a.g.toNat + b.g.toNat + c.g.toNat + d.g.toNat) -
        4684 * (a.b.toNat + b.b.toNat + c.b.toNat + d.b.toNat)) := by
  simp only [vConv4, List.map_cons, List.map_nil, List.sum_cons, List.sum_nil, vWeight, sampleInt]
  congr 1; ring

/-- A weight sum within `112 * 2^18` of 0 is rounded and never clipped (R224). -/
theorem chromaRound_toNat {sum : Int} (hlo : -(112 * 2 ^ 18 + 2 ^ 17) ≤ sum) (hhi : sum < 112 * 2 ^ 18 + 2 ^ 17) :
    let v : Int := (sum + 2 ^ 17 + 128 * 2 ^ 18) / 2 ^ 18
    ((chromaRound sum).toNat : Int) = v ∧ 16 ≤ v ∧ v ≤ 240 := by
  intro v
  have hrange : 16 ≤ v ∧ v ≤ 240 := by omega
  exact ⟨clip255_toNat (v := v) (by omega) (by omega), hrange⟩

/-- Settles O36: each weight sum of a group is within the bound of `chromaRound_toNat`, whose value is 128 where the weights cancel. -/
theorem chromaIsInRange : Obligations.ChromaIsInRange := by
  refine ⟨fun a b c d => ?_, fun x => ?_, by decide, by decide⟩
  · intro r g bl u v
    have hr : 0 ≤ r ∧ r ≤ 1020 := by have := a.r.isLt; have := b.r.isLt; have := c.r.isLt; have := d.r.isLt; omega
    have hg : 0 ≤ g ∧ g ≤ 1020 := by have := a.g.isLt; have := b.g.isLt; have := c.g.isLt; have := d.g.isLt; omega
    have hb : 0 ≤ bl ∧ bl ≤ 1020 := by have := a.b.isLt; have := b.b.isLt; have := c.b.isLt; have := d.b.isLt; omega
    obtain ⟨hu, hulo, huhi⟩ := chromaRound_toNat (sum := -9719 * r - 19081 * g + 28800 * bl) (by omega) (by omega)
    obtain ⟨hv, hvlo, hvhi⟩ := chromaRound_toNat (sum := 28800 * r - 24116 * g - 4684 * bl) (by omega) (by omega)
    rw [uConv4_eq, vConv4_eq]
    exact ⟨hu, hulo, huhi, hv, hvlo, hvhi⟩
  · have hcancel : ∀ n : Int, -9719 * n - 19081 * n + 28800 * n = 0 ∧ 28800 * n - 24116 * n - 4684 * n = 0 := by intro n; omega
    constructor
    · exact (uConv4_eq _ _ _ _).trans (congrArg chromaRound (hcancel _).1)
    · exact (vConv4_eq _ _ _ _).trans (congrArg chromaRound (hcancel _).2)

end Sys2Proof.Machine
end

section
/-! The token partition and the open table (44_entropy_coder.md R370, R373). -/

namespace Sys2Proof.Machine

theorem codeFrame_counts (mbw : Nat) (q : QIndex) (mbs : List MbRecord) :
    (codeFrame mbw q mbs).counts = countAll (walkFrame mbw mbs).1 := by
  simp only [codeFrame]

/-- A tree boolean of a walk is counted at its entry (R370). -/
theorem countAll_total_pos {toks : List TokenBool} {t : BlockType} {b : Fin 8} {k : Fin 3} {n : Fin 11} {bit : Bool}
    (h : .node t b k n bit ∈ toks) : 0 < (countAt (countAll toks) (nodeIndex (typeIndex t) b.val k.val n.val)).total := by
  have hcount : 0 < toks.count (.node t b k n bit) := List.count_pos_iff.mpr h
  rw [countAt_countAll, NodeCount.total]
  cases bit <;> dsimp only <;> omega

/-- Settles O51: every tree boolean of the walk is counted, so its probability is the adapted one in both tables. -/
theorem tokenPartitionIgnoresTheDefaults : Obligations.TokenPartitionIgnoresTheDefaults := by
  intro mbw q mbs probs hprobs
  rw [codeFrame_e2_out, codeFrame_probs]
  rw [codeFrame_counts] at hprobs ⊢
  refine congrArg (fun bs => flushBytes (putAll BoolEnc.init bs)) (List.map_congr_left fun x hx => ?_)
  cases x with
  | fixed p bit => simp only [tokenProb]
  | node t b k n bit =>
    have hi := nodeIndex_lt (typeIndex_lt t) b.isLt k.isLt n.isLt
    have hcounted := countAll_total_pos hx
    simp only [tokenProb, hprobs _ hi hcounted, codingProbs_getD _ hi, codingProb, if_pos hcounted]

end Sys2Proof.Machine
end

section
/-! A run of the block while the host only polls (60_exceptions.md R470, R471). -/

namespace Sys2Proof.Machine

/-- What every step keeps is kept by every run. -/
theorem run_keeps {P : State → Prop} (hstep : ∀ s t, P s → step s = .next t → P t) {n : Nat} {s t : State} (h : P s)
    (hrun : Host.Core.run core n s = .next t) : P t := by
  induction n generalizing s with
  | zero =>
    cases hrun
    exact h
  | succ n ih =>
    obtain ⟨u, hst, hrest⟩ := run_cases hrun
    exact ih (hstep s u h hst) hrest

/-- The block's transition leaves the pending inputs alone (R194). -/
theorem stepBlock_inputs {s t : State} (h : stepBlock s = .next t) : t.inputs = s.inputs := by
  have hsame : stepBlock (withInputs s.inputs s) = stepBlock s := rfl
  rw [stepBlock_withInputs, h] at hsame
  exact (congrArg State.inputs (Host.Outcome.next.inj hsame)).symm

/-- A read of a register that answers a next state has set the read data and nothing else (R184). -/
theorem busStep_read_cases {o : Offset} {n : Nat} {s t : State} (h : busStep (.read o n) s = .next t) :
    t = { s with busData := readOffset o s.regs } := by
  obtain ⟨i, hd, hx⟩ := busStep_cases h
  rcases decode_eq_instr hd with ⟨o', hal, heq, rfl⟩ | ⟨_, _, _, heq, _⟩
  · obtain ⟨rfl, -⟩ := BusAccess.read.inj heq
    rw [exec, execRd, if_pos hal] at hx
    exact (Host.Outcome.next.inj hx).symm
  · cases heq

/-- The host does nothing but poll registers while the block moves. -/
def Polling (l : List Input) : Prop := ∀ x ∈ l, x = .block ∨ ∃ o, x = .bus (.read o 4)

/-- Since acceptance memory has changed only if the encode has ended, and then without an error. -/
structure NothingWritten (m : Memory) (s : State) : Prop where
  inv : MachineInv s
  polling : Polling s.inputs
  running : s.phase ≠ .idle → s.mem = m
  failed : s.err = true → s.mem = m

/-- Completion leaves ERR at 0, and every other transition leaves memory alone (R471). -/
theorem NothingWritten.stepBlock {m : Memory} {s t : State} (h : NothingWritten m s) (hst : stepBlock s = .next t) : NothingWritten m t := by
  have hinv := h.inv.stepBlock hst
  have hpoll : Polling t.inputs := stepBlock_inputs hst ▸ h.polling
  by_cases hidle : s.phase = .idle
  · cases (stepBlock_idle hidle).symm.trans hst
    exact h
  have hm : s.mem = m := h.running hidle
  by_cases hwrite : s.phase = .write
  · have hst' : stepWrite s = .next t := by simpa only [Machine.stepBlock, hwrite] using hst
    obtain ⟨_, herr, _⟩ := h.inv.1.running hidle
    obtain ⟨best, _, ⟨_, rfl⟩ | ⟨_, rfl | rfl⟩⟩ := stepWrite_cases hst'
    · exact ⟨hinv, hpoll, fun _ => hm, fun _ => hm⟩
    · refine ⟨hinv, hpoll, fun hrun => absurd rfl hrun, fun hfailed => ?_⟩
      exact absurd (herr.symm.trans ((complete_err best _).symm.trans hfailed)) Bool.false_ne_true
    · exact h
  · have hmem : t.mem = m := (stepBlock_mem hst hwrite).trans hm
    exact ⟨hinv, hpoll, fun _ => hmem, fun _ => hmem⟩

theorem NothingWritten.step {m : Memory} {s t : State} (h : NothingWritten m s) (hst : step s = .next t) : NothingWritten m t := by
  cases hin : s.inputs with
  | nil => exact h.stepBlock ((step_of_no_input hin).symm.trans hst)
  | cons x rest =>
    have hpoll : Polling (x :: rest) := hin ▸ h.polling
    obtain ⟨hx, hrest⟩ := List.forall_mem_cons.mp hpoll
    have htaken : NothingWritten m { s with inputs := rest } := ⟨h.inv.of_sameBlock rfl rfl rfl, hrest, h.running, h.failed⟩
    rcases hx with rfl | ⟨o, rfl⟩
    · exact htaken.stepBlock ((step_block hin).symm.trans hst)
    · have hbus : busStep (.read o 4) { s with inputs := rest } = .next t := by simpa only [Machine.step, hin] using hst
      obtain rfl := busStep_read_cases hbus
      exact ⟨htaken.inv.of_sameBlock rfl rfl rfl, hrest, h.running, h.failed⟩

/-- Settles O22: before the first step nothing is written, and every step that the host only polls keeps it so unless the encode ends without an
error. -/
theorem noOutputOnError : Obligations.NoOutputOnError := by
  intro n s t hinv _ hpoll hrun herr
  have h : NothingWritten s.mem t := run_keeps (fun _ _ => NothingWritten.step) ⟨hinv, hpoll, fun _ => rfl, fun _ => rfl⟩ hrun
  exact h.failed herr

end Sys2Proof.Machine
end

section
/-! Two encodes of one configuration over the same source bytes (40_commands.md R196; log 8). -/

namespace Sys2Proof.Machine

/-! One encode with a silent host and no race. -/

/-- No transition of the block changes the records of races (logs 10, 11). -/
theorem stepBlock_races {s t : State} (h : stepBlock s = .next t) : t.srcRace = s.srcRace ∧ t.dstRace = s.dstRace := by
  rcases stepBlock_cases h with ⟨_, rfl⟩ | ⟨_, hc⟩ | ⟨_, hc⟩ | ⟨_, hc⟩ | ⟨_, hc⟩
  · exact ⟨rfl, rfl⟩
  · rcases stepCheck_cases hc with ⟨_, _, rfl⟩ | ⟨_, _, rfl⟩ <;> exact ⟨rfl, rfl⟩
  · rcases stepConvert_cases hc with ⟨_, rfl⟩ | ⟨_, rfl⟩ <;> exact ⟨rfl, rfl⟩
  · rcases stepPass_cases hc with ⟨_, rfl⟩ | ⟨_, rfl⟩ <;> exact ⟨rfl, rfl⟩
  · obtain ⟨_, _, ⟨_, rfl⟩ | ⟨_, rfl | rfl⟩⟩ := stepWrite_cases hc <;> exact ⟨rfl, rfl⟩

/-- While an encode runs no transition changes its snapshot (10_state.md R60). -/
theorem stepBlock_cfg {s t : State} (h : stepBlock s = .next t) (hrun : t.phase ≠ .idle) : t.session.cfg = s.session.cfg := by
  rcases stepBlock_cases h with ⟨_, rfl⟩ | ⟨_, hc⟩ | ⟨_, hc⟩ | ⟨_, hc⟩ | ⟨_, hc⟩
  · rfl
  · rcases stepCheck_cases hc with ⟨_, _, rfl⟩ | ⟨_, _, rfl⟩
    · exact absurd rfl hrun
    · rfl
  · rcases stepConvert_cases hc with ⟨_, rfl⟩ | ⟨_, rfl⟩ <;> rfl
  · rcases stepPass_cases hc with ⟨_, rfl⟩ | ⟨_, rfl⟩
    · exact absurd rfl hrun
    · exact (rateStep_keeps (runPass s.session) (runPass s.session).result).1
  · obtain ⟨_, _, ⟨_, rfl⟩ | ⟨_, rfl | rfl⟩⟩ := stepWrite_cases hc
    · exact absurd rfl hrun
    · rfl
    · rfl

/-- An encode of configuration `c` with a silent host and no racing store, or what it has left. -/
structure Alone (c : EncConfig) (s : State) : Prop where
  inv : MachineInv s
  best : BestInv s
  wf : s.mem.wf = true
  silent : s.inputs = []
  noRace : RaceFree s
  cfg : s.phase ≠ .idle → s.session.cfg = c

theorem Alone.step_eq {c : EncConfig} {s : State} (h : Alone c s) : step s = stepBlock s := step_of_no_input h.silent

/-- An encode that has ended stays as it is. -/
theorem Alone.step_idle {c : EncConfig} {s : State} (h : Alone c s) (hp : s.phase = .idle) : step s = .next s :=
  h.step_eq.trans (stepBlock_idle hp)

theorem Alone.step {c : EncConfig} {s t : State} (h : Alone c s) (hst : step s = .next t) : Alone c t := by
  have hblock : stepBlock s = .next t := h.step_eq.symm.trans hst
  obtain ⟨hsrc, hdst⟩ := stepBlock_races hblock
  obtain ⟨hsrc0, hdst0⟩ := h.noRace
  refine ⟨h.inv.stepBlock hblock, h.best.stepBlock hblock, stepBlock_wf h.wf hblock, (stepBlock_inputs hblock).trans h.silent,
    ⟨hsrc.trans hsrc0, hdst.trans hdst0⟩, fun hrun => ?_⟩
  by_cases hp : s.phase = .idle
  · cases (stepBlock_idle hp).symm.trans hblock
    exact absurd hp hrun
  · exact (stepBlock_cfg hblock hrun).trans (h.cfg hp)

/-- With no race CONVERT reads the bytes in memory (R117, R520). -/
theorem Alone.readSource_congr {c : EncConfig} {s t : State} (hs : Alone c s) (ht : Alone c t)
    (h : ∀ a ∈ sourceRegion c, readByte s.mem a.toNat = readByte t.mem a.toNat) : readSource s c = readSource t c := by
  refine Machine.readSource_congr fun y hy x hx => readPixel_congr hs.noRace.1 ht.noRace.1 fun j hj => h _ ?_
  simp only [sourceRegion, List.mem_flatMap, List.mem_map, List.mem_range]
  exact ⟨y, hy, x, hx, j, by omega, rfl⟩

/-- A result kept in WRITE has the size of its file (45_rate_control.md R405). -/
theorem BestInv.size_eq {s : State} (h : BestInv s) (hp : s.phase = .write) {b : PassResult} (hb : s.session.best = some b) :
    b.size = b.file.length := by
  rw [(bestInv_iff s).mp h (.inr hp) b hb]
  rfl

/-! What a pass reads of a session. -/

/-- A session without what a pass writes before reading it (10_state.md R63 to R67, R69). -/
def Session.lasting (ses : Session) : Session :=
  { ses with
    yRec := [], uRec := [], vRec := [], mbs := [], ctx := Contexts.unspecified, counts := [], probs := []
    e1 := BoolEnc.init, e2 := BoolEnc.init }

theorem runPass_lasting (ses : Session) : runPass ses.lasting = runPass ses := rfl

theorem runPass_congr {a b : Session} (h : a.lasting = b.lasting) : runPass a = runPass b := by
  rw [← runPass_lasting a, h, runPass_lasting]

theorem lasting_k {a b : Session} (h : a.lasting = b.lasting) : a.k = b.k :=
  (congrArg Session.k h : a.lasting.k = b.lasting.k)

theorem lasting_best {a b : Session} (h : a.lasting = b.lasting) : a.best = b.best :=
  (congrArg Session.best h : a.lasting.best = b.lasting.best)

/-- What CONVERT leaves is a function of the snapshot and the samples it reads (R191, R220). -/
theorem convert_lasting_congr {c : EncConfig} {s t : State} (hs : s.session.cfg = c) (ht : t.session.cfg = c)
    (h : readSource s c = readSource t c) :
    (rateInit (convertPlanes s s.session)).lasting = (rateInit (convertPlanes t t.session)).lasting := by
  simp only [Session.lasting, rateInit, convertPlanes, hs, ht, h]

/-! How two encodes end. -/

/-- Two ended encodes of configuration `c` show the host the same flags, error code and results and, on DONE, the same file. -/
def SameEnd (c : EncConfig) (s t : State) : Prop :=
  s.done = t.done ∧ s.err = t.err ∧ s.regs.errCode = t.regs.errCode ∧ s.regs.outLen = t.regs.outLen ∧
  s.regs.payloadLen = t.regs.payloadLen ∧ s.regs.qUsed = t.regs.qUsed ∧ s.regs.passes = t.regs.passes ∧
  (s.done = true → ∀ i < s.regs.outLen.toNat,
    readByte s.mem (addrPlus c.dstAddr i).toNat = readByte t.mem (addrPlus c.dstAddr i).toNat)

/-- Error entry with one code ends two encodes alike: the results of both are still 0 (R470). -/
theorem raiseError_sameEnd (c : EncConfig) (code : ErrorCode) {s t : State} (hs : RegsInv s) (ht : RegsInv t) (hps : s.phase ≠ .idle)
    (hpt : t.phase ≠ .idle) : SameEnd c (raiseError code s) (raiseError code t) := by
  obtain ⟨_, _, _, hout, hpay, hq, hk⟩ := hs.running hps
  obtain ⟨_, _, _, hout', hpay', hq', hk'⟩ := ht.running hpt
  refine ⟨by simp, by simp, rfl, hout.trans hout'.symm, hpay.trans hpay'.symm, hq.trans hq'.symm, hk.trans hk'.symm, fun hdone => ?_⟩
  exact absurd ((raiseError_done code s).symm.trans hdone) Bool.false_ne_true

/-- A file that fits is stored whole where no store raced (46_container.md R440). -/
theorem Alone.readByte_storeFile {c : EncConfig} {s : State} (h : Alone c s) (hp : s.phase = .write) {best : PassResult}
    (hb : s.session.best = some best) (hfit : best.size ≤ c.dstCap.toNat) {i : Nat} (hi : i < best.size) :
    readByte (storeFile best s).mem (addrPlus c.dstAddr i).toNat = best.file.getD i 0 := by
  have hcfg : s.session.cfg = c := h.cfg (by simp [hp])
  have hsize := h.best.size_eq hp hb
  have hlen : best.file.length ≤ 2 ^ 32 := hsize ▸ hfit.trans (BitVec.isLt _).le
  obtain ⟨hfile, _⟩ := readByte_written_raced h.wf hlen (hsize ▸ hi)
  rw [hcfg] at hfile
  exact hfile (by simp [h.noRace.2])

/-- Completion with one result and one number of passes ends two encodes alike (R197). -/
theorem complete_sameEnd {c : EncConfig} {s t : State} (hs : Alone c s) (ht : Alone c t) (hps : s.phase = .write) (hpt : t.phase = .write)
    {best : PassResult} (hbs : s.session.best = some best) (hbt : t.session.best = some best) (hfit : best.size ≤ c.dstCap.toNat)
    (hk : s.session.k = t.session.k) :
    SameEnd c (complete best (storeFile best s)) (complete best (storeFile best t)) := by
  obtain ⟨_, herr, hcode, _⟩ := hs.inv.1.running (by simp [hps])
  obtain ⟨_, herr', hcode', _⟩ := ht.inv.1.running (by simp [hpt])
  refine ⟨by simp, ?_, hcode.trans hcode'.symm, rfl, rfl, rfl, congrArg (BitVec.ofNat 32) hk, fun _ i hi => ?_⟩
  · exact (complete_err best _).trans (herr.trans (herr'.symm.trans (complete_err best _).symm))
  · have hi' : i < best.size := hi.trans_le (toNat_ofNat_le best.size)
    exact (hs.readByte_storeFile hps hbs hfit hi').trans (ht.readByte_storeFile hpt hbt hfit hi').symm

/-! Two encodes in step. -/

/-- Two encodes of configuration `c` in the same phase, over the same source bytes until CONVERT has read them and with the same planes and search
from then on. -/
structure InStep (c : EncConfig) (s t : State) : Prop where
  left : Alone c s
  right : Alone c t
  phase : t.phase = s.phase
  source : s.phase = .check ∨ s.phase = .convert → ∀ a ∈ sourceRegion c, readByte s.mem a.toNat = readByte t.mem a.toNat
  session : s.phase = .pass ∨ s.phase = .write → s.session.lasting = t.session.lasting
  ended : s.phase = .idle → SameEnd c s t

section Transitions
variable {c : EncConfig} {s t s' t' : State} (h : InStep c s t) (hs : step s = .next s') (ht : step t = .next t')
include h hs ht

/-- Both encodes end alike. -/
theorem InStep.of_ended (hs' : s'.phase = .idle) (ht' : t'.phase = .idle) (hend : SameEnd c s' t') : InStep c s' t' :=
  ⟨h.left.step hs, h.right.step ht, ht'.trans hs'.symm, by simp [hs'], by simp [hs'], fun _ => hend⟩

/-- Both encodes end with one error. -/
theorem InStep.of_raiseError (hp : s.phase ≠ .idle) {code : ErrorCode} (hs' : s' = raiseError code s) (ht' : t' = raiseError code t) :
    InStep c s' t' := by
  have hp' : t.phase ≠ .idle := h.phase ▸ hp
  refine h.of_ended hs ht (by rw [hs']; rfl) (by rw [ht']; rfl) ?_
  rw [hs', ht']
  exact raiseError_sameEnd c code h.left.inv.1 h.right.inv.1 hp hp'

theorem InStep.check (hp : s.phase = .check) : InStep c s' t' := by
  have hp' : t.phase = .check := h.phase.trans hp
  have hcs := h.left.cfg (by simp [hp])
  have hct := h.right.cfg (by simp [hp'])
  have hleft : stepCheck s = .next s' := by simpa only [h.left.step_eq, stepBlock, hp] using hs
  have hright : stepCheck t = .next t' := by simpa only [h.right.step_eq, stepBlock, hp'] using ht
  have hcfg : t.session.cfg = s.session.cfg := hct.trans hcs.symm
  rcases stepCheck_cases hleft with ⟨code, hc, hs'⟩ | ⟨hc, _, hs'⟩
  · rcases stepCheck_cases hright with ⟨code', hc', ht'⟩ | ⟨hc', _, _⟩
    · obtain rfl : code' = code := Option.some.inj (hc'.symm.trans (hcfg ▸ hc))
      exact h.of_raiseError hs ht (by simp [hp]) hs' ht'
    · cases hc'.symm.trans (hcfg ▸ hc)
  · rcases stepCheck_cases hright with ⟨code', hc', _⟩ | ⟨_, _, ht'⟩
    · cases hc'.symm.trans (hcfg ▸ hc)
    · refine ⟨h.left.step hs, h.right.step ht, by rw [hs', ht'], fun _ => ?_, by simp [hs'], by simp [hs']⟩
      rw [hs', ht']
      exact h.source (.inl hp)

theorem InStep.convert (hp : s.phase = .convert) : s' = s ∨ t' = t ∨ InStep c s' t' := by
  have hp' : t.phase = .convert := h.phase.trans hp
  have hcs := h.left.cfg (by simp [hp])
  have hct := h.right.cfg (by simp [hp'])
  have hleft : stepConvert s = .next s' := by simpa only [h.left.step_eq, stepBlock, hp] using hs
  have hright : stepConvert t = .next t' := by simpa only [h.right.step_eq, stepBlock, hp'] using ht
  rcases stepConvert_cases hleft with ⟨_, hs'⟩ | ⟨_, hs'⟩
  · rcases stepConvert_cases hright with ⟨_, ht'⟩ | ⟨_, ht'⟩
    · refine .inr (.inr ⟨h.left.step hs, h.right.step ht, by rw [hs', ht'], by simp [hs'], fun _ => ?_, by simp [hs']⟩)
      rw [hs', ht']
      exact convert_lasting_congr hcs hct (h.left.readSource_congr h.right (h.source (.inr hp)))
    · exact .inr (.inl ht')
  · exact .inl hs'

theorem InStep.pass (hp : s.phase = .pass) : InStep c s' t' := by
  have hp' : t.phase = .pass := h.phase.trans hp
  have hleft : stepPass s = .next s' := by simpa only [h.left.step_eq, stepBlock, hp] using hs
  have hright : stepPass t = .next t' := by simpa only [h.right.step_eq, stepBlock, hp'] using ht
  have hrun : runPass t.session = runPass s.session := (runPass_congr (h.session (.inl hp))).symm
  rcases stepPass_cases hleft with ⟨hl, hs'⟩ | ⟨hl, hs'⟩
  · rcases stepPass_cases hright with ⟨_, ht'⟩ | ⟨hl', _⟩
    · exact h.of_raiseError hs ht (by simp [hp]) hs' ht'
    · cases hl'.symm.trans (hrun ▸ hl)
  · rcases stepPass_cases hright with ⟨hl', _⟩ | ⟨_, ht'⟩
    · cases hl'.symm.trans (hrun ▸ hl)
    · rw [hrun] at ht'
      have hsame : s'.session = t'.session := by rw [hs', ht']
      have hphase : t'.phase = s'.phase := by rw [hs', ht']
      have hnext : s'.phase = .write ∨ s'.phase = .pass := hs' ▸ phaseAfter_cases _
      refine ⟨h.left.step hs, h.right.step ht, hphase, fun hnot => ?_, fun _ => congrArg Session.lasting hsame, fun hnot => ?_⟩
      · rcases hnext with hnext | hnext <;> simp [hnext] at hnot
      · rcases hnext with hnext | hnext <;> cases hnext.symm.trans hnot

theorem InStep.write (hp : s.phase = .write) : s' = s ∨ t' = t ∨ InStep c s' t' := by
  have hp' : t.phase = .write := h.phase.trans hp
  have hcs := h.left.cfg (by simp [hp])
  have hct := h.right.cfg (by simp [hp'])
  have hleft : stepWrite s = .next s' := by simpa only [h.left.step_eq, stepBlock, hp] using hs
  have hright : stepWrite t = .next t' := by simpa only [h.right.step_eq, stepBlock, hp'] using ht
  have hsame := h.session (.inr hp)
  have hk : s.session.k = t.session.k := lasting_k hsame
  have hbest : s.session.best = t.session.best := lasting_best hsame
  obtain ⟨best, hb, hcase⟩ := stepWrite_cases hleft
  obtain ⟨best', hb', hcase'⟩ := stepWrite_cases hright
  obtain rfl : best' = best := Option.some.inj (hb'.symm.trans (hbest.symm.trans hb))
  rw [hcs] at hcase
  rw [hct] at hcase'
  rcases hcase with ⟨hlarge, hs'⟩ | ⟨hfit, hs' | hs'⟩
  · rcases hcase' with ⟨_, ht'⟩ | ⟨hfit, _⟩
    · exact .inr (.inr (h.of_raiseError hs ht (by simp [hp]) hs' ht'))
    · exact absurd hlarge (not_lt.mpr hfit)
  · rcases hcase' with ⟨hlarge, _⟩ | ⟨_, ht' | ht'⟩
    · exact absurd hlarge (not_lt.mpr hfit)
    · refine .inr (.inr (h.of_ended hs ht (by rw [hs']; rfl) (by rw [ht']; rfl) ?_))
      rw [hs', ht']
      exact complete_sameEnd h.left h.right hp hp' hb hb' hfit hk
    · exact .inr (.inl ht')
  · exact .inl hs'

/-- Unless one of them has no step, two encodes stay in step. -/
theorem InStep.next : s' = s ∨ t' = t ∨ InStep c s' t' := by
  cases hp : s.phase with
  | idle => exact .inl (Host.Outcome.next.inj (hs.symm.trans (h.left.step_idle hp)))
  | check => exact .inr (.inr (h.check hs ht hp))
  | convert => exact h.convert hs ht hp
  | pass => exact .inr (.inr (h.pass hs ht hp))
  | write => exact h.write hs ht hp

end Transitions

/-- A run from a state that steps to itself ends there. -/
theorem eq_of_run_of_fixed {s t : State} {n : Nat} (hfix : step s = .next s) (hrun : Host.Core.run core n s = .next t) : t = s :=
  Host.Outcome.next.inj (hrun.symm.trans (run_of_fixed hfix n))

/-- A run that ends an encode that is still running begins with a step that is not stuck. -/
theorem run_cases_of_running {n : Nat} {s u : State} (hrun : Host.Core.run core n s = .next u) (hp : s.phase ≠ .idle) (hu : u.phase = .idle) :
    ∃ k t, n = k + 1 ∧ step s = .next t ∧ t ≠ s ∧ Host.Core.run core k t = .next u := by
  cases n with
  | zero =>
    cases hrun
    exact absurd hu hp
  | succ k =>
    obtain ⟨t, hst, hrest⟩ := run_cases hrun
    refine ⟨k, t, rfl, hst, ?_, hrest⟩
    rintro rfl
    exact hp (eq_of_run_of_fixed hst hrest ▸ hu)

/-- Runs of any two lengths that end two encodes in step end them alike. -/
theorem InStep.runs {c : EncConfig} {m n : Nat} {s t s' t' : State} (h : InStep c s t) (hs : Host.Core.run core m s = .next s')
    (ht : Host.Core.run core n t = .next t') (hs' : s'.phase = .idle) (ht' : t'.phase = .idle) : SameEnd c s' t' := by
  induction m generalizing s t n with
  | zero =>
    cases hs
    obtain rfl := eq_of_run_of_fixed (h.right.step_idle (h.phase.trans hs')) ht
    exact h.ended hs'
  | succ m ih =>
    by_cases hp : s.phase = .idle
    · obtain rfl := eq_of_run_of_fixed (h.left.step_idle hp) hs
      obtain rfl := eq_of_run_of_fixed (h.right.step_idle (h.phase.trans hp)) ht
      exact h.ended hp
    · obtain ⟨_, s₁, hm, hstep, hmove, hrest⟩ := run_cases_of_running hs hp hs'
      obtain rfl := Nat.succ.inj hm
      obtain ⟨_, t₁, rfl, hstep', hmove', hrest'⟩ := run_cases_of_running ht (h.phase ▸ hp) ht'
      rcases h.next hstep hstep' with hstuck | hstuck | hnext
      · exact absurd hstuck hmove
      · exact absurd hstuck hmove'
      · exact ih hnext hrest hrest'

/-- Settles O29: the two encodes start in step, and their runs end them alike. -/
theorem encodeIsDeterministic : Obligations.EncodeIsDeterministic := by
  intro m n s t s' t' hinv hinv' hwf hwf' hp hp' hin hin' hrace hrace' hcfg hsrc hs ht hs' ht'
  have hleft : Alone s.session.cfg s := ⟨hinv, .of_phase (.inr (.inl hp)), hwf, hin, hrace, fun _ => rfl⟩
  have hright : Alone s.session.cfg t := ⟨hinv', .of_phase (.inr (.inl hp')), hwf', hin', hrace', fun _ => hcfg.symm⟩
  have h : InStep s.session.cfg s t := ⟨hleft, hright, hp'.trans hp.symm, fun _ => hsrc, by simp [hp], by simp [hp]⟩
  exact h.runs hs ht hs' ht'

end Sys2Proof.Machine
end
